-- ==== Sys2Proof/Word.lean ====
section
/-!
DEFINITION. The widths of the CORE's values (spec 00_scope.md R9) and the arithmetic on them that every rule shares.
-/

namespace Sys2Proof

/-- An 8-bit value: a general register, a timer, a byte of memory (R9 REG_W, TIMER_W). -/
abbrev Byte := BitVec 8

/-- A 16-bit value: PC, I, a stack entry, an instruction word (R9 PC_W, I_W, INSN_W). -/
abbrev Word := BitVec 16

/-- The 12-bit address field `nnn` of an instruction (R17). -/
abbrev Addr12 := BitVec 12

/-- The number of a general register, V0 to VF (R20). -/
abbrev Reg := Fin 16

/-- The number of rows of a sprite, the field `n` of DRW (R17). -/
abbrev RowCount := Fin 16

/-- VF, the register that doubles as the flag output (R21). -/
abbrev vf : Reg := 15

end Sys2Proof
end

