-- ==== Sys2Proof/Syntax.lean ====
section
/-!
DEFINITION. The 34 instructions, one constructor per row of spec/opcode_table.json, in the table's order
(spec 30_encoding.md R74).  Operands are the fields of 00_scope.md R17; ignored bits (R77) are no operand.
-/

namespace Sys2Proof

/-- The instructions of R74. -/
inductive Instr where
  /-- `0--0` CLS (R191) -/
  | cls
  /-- `0--E` RET (R122) -/
  | ret
  /-- `1nnn` JP nnn (R123) -/
  | jp (nnn : Addr12)
  /-- `2nnn` CALL nnn (R121) -/
  | call (nnn : Addr12)
  /-- `3xkk` SE Vx,kk (R125) -/
  | seImm (x : Reg) (kk : Byte)
  /-- `4xkk` SNE Vx,kk (R126) -/
  | sneImm (x : Reg) (kk : Byte)
  /-- `5xy-` SE Vx,Vy (R127) -/
  | seReg (x y : Reg)
  /-- `6xkk` LD Vx,kk (R141) -/
  | ldImm (x : Reg) (kk : Byte)
  /-- `7xkk` ADD Vx,kk (R142) -/
  | addImm (x : Reg) (kk : Byte)
  /-- `8xy0` LD Vx,Vy (R143) -/
  | ldReg (x y : Reg)
  /-- `8xy1` OR Vx,Vy (R144) -/
  | orReg (x y : Reg)
  /-- `8xy2` AND Vx,Vy (R145) -/
  | andReg (x y : Reg)
  /-- `8xy3` XOR Vx,Vy (R146) -/
  | xorReg (x y : Reg)
  /-- `8xy4` ADD Vx,Vy (R147) -/
  | addReg (x y : Reg)
  /-- `8xy5` SUB Vx,Vy (R148) -/
  | subReg (x y : Reg)
  /-- `8x-6` SHR Vx (R149) -/
  | shr (x : Reg)
  /-- `8xy7` SUBN Vx,Vy (R150) -/
  | subnReg (x y : Reg)
  /-- `8x-E` SHL Vx (R151) -/
  | shl (x : Reg)
  /-- `9xy-` SNE Vx,Vy (R128) -/
  | sneReg (x y : Reg)
  /-- `Annn` LD I,nnn (R171) -/
  | ldI (nnn : Addr12)
  /-- `Bnnn` JP V0,nnn (R124) -/
  | jpV0 (nnn : Addr12)
  /-- `Cxkk` RND Vx,kk (R152) -/
  | rnd (x : Reg) (kk : Byte)
  /-- `Dxyn` DRW Vx,Vy,n (R192) -/
  | drw (x y : Reg) (n : RowCount)
  /-- `Ex9E` SKP Vx (R211) -/
  | skp (x : Reg)
  /-- `ExA1` SKNP Vx (R212) -/
  | sknp (x : Reg)
  /-- `Fx07` LD Vx,DT (R213) -/
  | ldVxDt (x : Reg)
  /-- `Fx0A` LD Vx,K (R214) -/
  | ldVxK (x : Reg)
  /-- `Fx15` LD DT,Vx (R215) -/
  | ldDtVx (x : Reg)
  /-- `Fx18` LD ST,Vx (R216) -/
  | ldStVx (x : Reg)
  /-- `Fx1E` ADD I,Vx (R172) -/
  | addIVx (x : Reg)
  /-- `Fx29` LD F,Vx (R173) -/
  | ldFVx (x : Reg)
  /-- `Fx33` LD B,Vx (R174) -/
  | ldBVx (x : Reg)
  /-- `Fx55` LD [I],Vx (R175) -/
  | stRegs (x : Reg)
  /-- `Fx65` LD Vx,[I] (R176) -/
  | ldRegs (x : Reg)
  deriving DecidableEq, Repr

end Sys2Proof
end

