-- ==== Sys2Proof/Decode.lean ====
section
/-!
DEFINITION. The decoder, total over all 65536 words, and after it the encoder and the opcode map
(spec 30_encoding.md R70-R78).  The selectors the source does not give are general knowledge (R75, log 9).
-/

namespace Sys2Proof

/-! ### Fields of a word (R17, R71) -/

/-- `w[15:12]`, the first dispatch key. -/
def highNibble (w : Word) : BitVec 4 := w.extractLsb' 12 4

/-- `w[3:0]`, the secondary key of groups 0x0 and 0x8. -/
def lowNibble (w : Word) : BitVec 4 := w.extractLsb' 0 4

/-- `w[7:0]`, the secondary key of groups 0xE and 0xF. -/
def lowByte (w : Word) : Byte := w.extractLsb' 0 8

/-- `w[15:8]`, the byte stored at the lower address (R57). -/
def highByte (w : Word) : Byte := w.extractLsb' 8 8

/-- `x = w[11:8]` -/
def fieldX (w : Word) : Reg := (w.extractLsb' 8 4).toFin

/-- `y = w[7:4]` -/
def fieldY (w : Word) : Reg := (w.extractLsb' 4 4).toFin

/-- `n = w[3:0]` -/
def fieldN (w : Word) : RowCount := (w.extractLsb' 0 4).toFin

/-- `kk = w[7:0]` -/
def fieldKK (w : Word) : Byte := w.extractLsb' 0 8

/-- `nnn = w[11:0]` -/
def fieldNNN (w : Word) : Addr12 := w.extractLsb' 0 12

/-- `{hi, lo}`: the word of two bytes fetched in ascending address order (R57). -/
def wordOfBytes (hi lo : Byte) : Word := hi ++ lo

/-! ### The two-level dispatch (R73) -/

/-- Group 0x0, keyed by the low nibble. -/
def decodeGroup0 (w : Word) : Option Instr :=
  match (lowNibble w).toNat with
  | 0x0 => some .cls
  | 0xE => some .ret
  | _   => none

/-- Group 0x8, keyed by the low nibble. -/
def decodeGroup8 (w : Word) : Option Instr :=
  match (lowNibble w).toNat with
  | 0x0 => some (.ldReg (fieldX w) (fieldY w))
  | 0x1 => some (.orReg (fieldX w) (fieldY w))
  | 0x2 => some (.andReg (fieldX w) (fieldY w))
  | 0x3 => some (.xorReg (fieldX w) (fieldY w))
  | 0x4 => some (.addReg (fieldX w) (fieldY w))
  | 0x5 => some (.subReg (fieldX w) (fieldY w))
  | 0x6 => some (.shr (fieldX w))
  | 0x7 => some (.subnReg (fieldX w) (fieldY w))
  | 0xE => some (.shl (fieldX w))
  | _   => none

/-- Group 0xE, keyed by the low byte. -/
def decodeGroupE (w : Word) : Option Instr :=
  match (lowByte w).toNat with
  | 0x9E => some (.skp (fieldX w))
  | 0xA1 => some (.sknp (fieldX w))
  | _    => none

/-- Group 0xF, keyed by the low byte. -/
def decodeGroupF (w : Word) : Option Instr :=
  match (lowByte w).toNat with
  | 0x07 => some (.ldVxDt (fieldX w))
  | 0x0A => some (.ldVxK (fieldX w))
  | 0x15 => some (.ldDtVx (fieldX w))
  | 0x18 => some (.ldStVx (fieldX w))
  | 0x1E => some (.addIVx (fieldX w))
  | 0x29 => some (.ldFVx (fieldX w))
  | 0x33 => some (.ldBVx (fieldX w))
  | 0x55 => some (.stRegs (fieldX w))
  | 0x65 => some (.ldRegs (fieldX w))
  | _    => none

/-- The decoder of R73; `none` is InvalidOpcode (R76).  It reads only the word (R79). -/
def decodeWord (w : Word) : Option Instr :=
  match (highNibble w).toNat with
  | 0x0 => decodeGroup0 w
  | 0x1 => some (.jp (fieldNNN w))
  | 0x2 => some (.call (fieldNNN w))
  | 0x3 => some (.seImm (fieldX w) (fieldKK w))
  | 0x4 => some (.sneImm (fieldX w) (fieldKK w))
  | 0x5 => some (.seReg (fieldX w) (fieldY w))
  | 0x6 => some (.ldImm (fieldX w) (fieldKK w))
  | 0x7 => some (.addImm (fieldX w) (fieldKK w))
  | 0x8 => decodeGroup8 w
  | 0x9 => some (.sneReg (fieldX w) (fieldY w))
  | 0xA => some (.ldI (fieldNNN w))
  | 0xB => some (.jpV0 (fieldNNN w))
  | 0xC => some (.rnd (fieldX w) (fieldKK w))
  | 0xD => some (.drw (fieldX w) (fieldY w) (fieldN w))
  | 0xE => decodeGroupE w
  | _   => decodeGroupF w

/-- What the decoder reads from a stream of bytes. -/
inductive Decoded where
  /-- an instruction, and the bytes after its two -/
  | instr (i : Instr) (rest : List Byte)
  /-- the first two bytes are a word that no row selects (R76) -/
  | invalidOpcode (w : Word)
  /-- fewer than the two bytes of an instruction (R70) -/
  | truncated
  deriving DecidableEq, Repr

/-- Decoding from bytes, big-endian (R57), total on any bytes. -/
def decodeBytes : List Byte → Decoded
  | hi :: lo :: rest =>
    match decodeWord (wordOfBytes hi lo) with
    | some i => .instr i rest
    | none   => .invalidOpcode (wordOfBytes hi lo)
  | _ => .truncated

/-- The instruction read from bytes, where there is one. -/
def Decoded.toInstr : Decoded → Option Instr
  | .instr i _       => some i
  | .invalidOpcode _ => none
  | .truncated       => none

/-- The word an opcode-table value `w` of `nbits` bits stands for; the bits above `nbits` are 0. -/
def tableWord (nbits w : Nat) : Word := BitVec.ofNat 16 (w % 2 ^ nbits)

/-- The instruction the decoder reads from the two bytes of a table word, high byte at the lower address. -/
def decodeTableWord (nbits w : Nat) : Option Instr :=
  (decodeBytes [highByte (tableWord nbits w), lowByte (tableWord nbits w)]).toInstr

/-! ### The encoder (R72, R74) -/

/-- Format `h nnn`. -/
def packNNN (h : BitVec 4) (nnn : Addr12) : Word := h ++ nnn

/-- Formats `h x kk` and `h x ss`. -/
def packXKK (h : BitVec 4) (x : Reg) (kk : Byte) : Word := h ++ (BitVec.ofFin x : BitVec 4) ++ kk

/-- Formats `h x y n` and `h x y s`. -/
def packXYN (h : BitVec 4) (x y : Reg) (n : RowCount) : Word :=
  h ++ (BitVec.ofFin x : BitVec 4) ++ (BitVec.ofFin y : BitVec 4) ++ (BitVec.ofFin n : BitVec 4)

/-- The word of an instruction.  An ignored bit (R77) is 0, but for CLS and RET, whose word is the one the spec's
examples write, `00E0` and `00EE` (log 16). -/
def encode : Instr → Word
  | .cls         => 0x00E0
  | .ret         => 0x00EE
  | .jp nnn      => packNNN 0x1 nnn
  | .call nnn    => packNNN 0x2 nnn
  | .seImm x k   => packXKK 0x3 x k
  | .sneImm x k  => packXKK 0x4 x k
  | .seReg x y   => packXYN 0x5 x y 0x0
  | .ldImm x k   => packXKK 0x6 x k
  | .addImm x k  => packXKK 0x7 x k
  | .ldReg x y   => packXYN 0x8 x y 0x0
  | .orReg x y   => packXYN 0x8 x y 0x1
  | .andReg x y  => packXYN 0x8 x y 0x2
  | .xorReg x y  => packXYN 0x8 x y 0x3
  | .addReg x y  => packXYN 0x8 x y 0x4
  | .subReg x y  => packXYN 0x8 x y 0x5
  | .shr x       => packXYN 0x8 x 0x0 0x6
  | .subnReg x y => packXYN 0x8 x y 0x7
  | .shl x       => packXYN 0x8 x 0x0 0xE
  | .sneReg x y  => packXYN 0x9 x y 0x0
  | .ldI nnn     => packNNN 0xA nnn
  | .jpV0 nnn    => packNNN 0xB nnn
  | .rnd x k     => packXKK 0xC x k
  | .drw x y n   => packXYN 0xD x y n
  | .skp x       => packXKK 0xE x 0x9E
  | .sknp x      => packXKK 0xE x 0xA1
  | .ldVxDt x    => packXKK 0xF x 0x07
  | .ldVxK x     => packXKK 0xF x 0x0A
  | .ldDtVx x    => packXKK 0xF x 0x15
  | .ldStVx x    => packXKK 0xF x 0x18
  | .addIVx x    => packXKK 0xF x 0x1E
  | .ldFVx x     => packXKK 0xF x 0x29
  | .ldBVx x     => packXKK 0xF x 0x33
  | .stRegs x    => packXKK 0xF x 0x55
  | .ldRegs x    => packXKK 0xF x 0x65

/-- The two bytes of an instruction as the program image holds them (R57). -/
def encodeBytes (i : Instr) : List Byte := [highByte (encode i), lowByte (encode i)]

/-- The bits of an instruction's word that decoding does not ignore (R77): bits 11:4 of CLS and RET, bits 3:0 of
SE Vx,Vy and SNE Vx,Vy and bits 7:4 of SHR and SHL are ignored. -/
def significantMask : Instr → Word
  | .cls        => 0xF00F
  | .ret        => 0xF00F
  | .seReg _ _  => 0xFFF0
  | .sneReg _ _ => 0xFFF0
  | .shr _      => 0xFF0F
  | .shl _      => 0xFF0F
  | _           => 0xFFFF

/-! ### The opcode map as data (R74) -/

/-- One row of R74: a word selects it when the word and the mask give the match value. -/
structure OpcodeRow where
  mnemonic : String
  value    : Word
  mask     : Word
  deriving DecidableEq, Repr

/-- The rows of groups 0x0 to 0x7. -/
def rowsLow : List OpcodeRow :=
  [ ⟨"CLS", 0x0000, 0xF00F⟩, ⟨"RET", 0x000E, 0xF00F⟩, ⟨"JP_nnn", 0x1000, 0xF000⟩,
    ⟨"CALL_nnn", 0x2000, 0xF000⟩, ⟨"SE_Vx_kk", 0x3000, 0xF000⟩, ⟨"SNE_Vx_kk", 0x4000, 0xF000⟩,
    ⟨"SE_Vx_Vy", 0x5000, 0xF000⟩, ⟨"LD_Vx_kk", 0x6000, 0xF000⟩, ⟨"ADD_Vx_kk", 0x7000, 0xF000⟩ ]

/-- The rows of group 0x8. -/
def rowsAlu : List OpcodeRow :=
  [ ⟨"LD_Vx_Vy", 0x8000, 0xF00F⟩, ⟨"OR_Vx_Vy", 0x8001, 0xF00F⟩, ⟨"AND_Vx_Vy", 0x8002, 0xF00F⟩,
    ⟨"XOR_Vx_Vy", 0x8003, 0xF00F⟩, ⟨"ADD_Vx_Vy", 0x8004, 0xF00F⟩, ⟨"SUB_Vx_Vy", 0x8005, 0xF00F⟩,
    ⟨"SHR_Vx", 0x8006, 0xF00F⟩, ⟨"SUBN_Vx_Vy", 0x8007, 0xF00F⟩, ⟨"SHL_Vx", 0x800E, 0xF00F⟩ ]

/-- The rows of groups 0x9 to 0xE. -/
def rowsHigh : List OpcodeRow :=
  [ ⟨"SNE_Vx_Vy", 0x9000, 0xF000⟩, ⟨"LD_I_nnn", 0xA000, 0xF000⟩, ⟨"JP_V0_nnn", 0xB000, 0xF000⟩,
    ⟨"RND_Vx_kk", 0xC000, 0xF000⟩, ⟨"DRW_Vx_Vy_n", 0xD000, 0xF000⟩, ⟨"SKP_Vx", 0xE09E, 0xF0FF⟩,
    ⟨"SKNP_Vx", 0xE0A1, 0xF0FF⟩ ]

/-- The rows of group 0xF. -/
def rowsMisc : List OpcodeRow :=
  [ ⟨"LD_Vx_DT", 0xF007, 0xF0FF⟩, ⟨"LD_Vx_K", 0xF00A, 0xF0FF⟩, ⟨"LD_DT_Vx", 0xF015, 0xF0FF⟩,
    ⟨"LD_ST_Vx", 0xF018, 0xF0FF⟩, ⟨"ADD_I_Vx", 0xF01E, 0xF0FF⟩, ⟨"LD_F_Vx", 0xF029, 0xF0FF⟩,
    ⟨"LD_B_Vx", 0xF033, 0xF0FF⟩, ⟨"LD__I__Vx", 0xF055, 0xF0FF⟩, ⟨"LD_Vx__I", 0xF065, 0xF0FF⟩ ]

/-- The 34 rows of R74, under the mnemonics of spec/opcode_table.json. -/
def opcodeRows : List OpcodeRow := rowsLow ++ rowsAlu ++ rowsHigh ++ rowsMisc

/-- `w & mask_r == match_r` (R74). -/
def OpcodeRow.selects (r : OpcodeRow) (w : Word) : Bool := (w &&& r.mask) == r.value

/-- The row of R74 that an instruction stands for. -/
def Instr.mnemonic : Instr → String
  | .cls        => "CLS"
  | .ret        => "RET"
  | .jp _       => "JP_nnn"
  | .call _     => "CALL_nnn"
  | .seImm _ _  => "SE_Vx_kk"
  | .sneImm _ _ => "SNE_Vx_kk"
  | .seReg _ _  => "SE_Vx_Vy"
  | .ldImm _ _  => "LD_Vx_kk"
  | .addImm _ _ => "ADD_Vx_kk"
  | .ldReg _ _  => "LD_Vx_Vy"
  | .orReg _ _  => "OR_Vx_Vy"
  | .andReg _ _ => "AND_Vx_Vy"
  | .xorReg _ _ => "XOR_Vx_Vy"
  | .addReg _ _ => "ADD_Vx_Vy"
  | .subReg _ _ => "SUB_Vx_Vy"
  | .shr _      => "SHR_Vx"
  | .subnReg _ _ => "SUBN_Vx_Vy"
  | .shl _      => "SHL_Vx"
  | .sneReg _ _ => "SNE_Vx_Vy"
  | .ldI _      => "LD_I_nnn"
  | .jpV0 _     => "JP_V0_nnn"
  | .rnd _ _    => "RND_Vx_kk"
  | .drw _ _ _  => "DRW_Vx_Vy_n"
  | .skp _      => "SKP_Vx"
  | .sknp _     => "SKNP_Vx"
  | .ldVxDt _   => "LD_Vx_DT"
  | .ldVxK _    => "LD_Vx_K"
  | .ldDtVx _   => "LD_DT_Vx"
  | .ldStVx _   => "LD_ST_Vx"
  | .addIVx _   => "ADD_I_Vx"
  | .ldFVx _    => "LD_F_Vx"
  | .ldBVx _    => "LD_B_Vx"
  | .stRegs _   => "LD__I__Vx"
  | .ldRegs _   => "LD_Vx__I"

end Sys2Proof
end

