-- ==== Sys2Proof/Config.lean ====
section
/-!
DEFINITION. The open parameters of spec 00_scope.md R10 as types, and the free values the spec leaves open.
The parameters' DEFAULT VALUES are `Machine.defaultConfig` in Machine/Memory.lean.
-/

namespace Sys2Proof

/-- P_ADDR_POLICY (R10, R14, D2). -/
inductive AddrPolicy where
  | fault
  | mask12
  deriving DecidableEq, Repr

/-- P_CALL_LINK_OFFSET (R10, R121, D5): what CALL adds to its own address before pushing it, 0 or 2. -/
inductive LinkOffset where
  | zero
  | two
  deriving DecidableEq, Repr

/-- P_SHL_FLAG (R10, R151, D6). -/
inductive ShlFlag where
  | lowNibbleEq1
  | msb
  deriving DecidableEq, Repr

/-- P_VF_WRITE_ORDER (R10, R106, D7): which of the two writes survives when the destination is VF. -/
inductive VfWriteOrder where
  | flagLast
  | resultLast
  deriving DecidableEq, Repr

/-- P_LDK_ADVANCE (R10, R214, D8): the PC advance of LD Vx,K when a key is pressed, 2 or 4. -/
inductive LdkAdvance where
  | two
  | four
  deriving DecidableEq, Repr

/-- P_LDK_SELECT (R10, R214, D9): which pressed key LD Vx,K takes. -/
inductive LdkSelect where
  | lowest
  | anyPressed
  deriving DecidableEq, Repr

/-- The open parameters of R10 that a running CORE consults.
P_FONT is consulted only when the state is created and is an argument of `State.resetWith`. -/
structure Config where
  addrPolicy   : AddrPolicy
  linkOffset   : LinkOffset
  shlFlag      : ShlFlag
  vfWriteOrder : VfWriteOrder
  ldkAdvance   : LdkAdvance
  ldkSelect    : LdkSelect
  deriving DecidableEq, Repr

/-- FREE VALUE (log 1): the key vector the host presents in a cycle for which `State.inputs` names none (R5, R269).
Its argument is `State.draws`. -/
opaque Config.freeKeyIn : Nat → BitVec 16

/-- FREE VALUE (log 1): the random byte the host presents in a cycle for which `State.inputs` names none
(R16, R152: any value, no law links two draws).  Its argument is `State.draws`. -/
opaque Config.freeRndIn : Nat → Byte

/-- FREE VALUE (log 12): the draw that selects among the pressed keys under P_LDK_SELECT = AnyPressed (R214, D9).
Its argument is `State.draws`; the model reduces it to an index into the pressed keys. -/
opaque Config.freePick : Nat → Nat

end Sys2Proof
end

