-- ==== Sys2Proof/Machine/Memory.lean ====
section
/-!
DEFINITION. The memory array, its reset contents and its byte read and write (spec 20_memory.md R50-R55), the
default values of the open parameters (00_scope.md R10).
-/

namespace Sys2Proof.Machine

/-- The defaults of R10, which the spec uses everywhere else. -/
def defaultConfig : Config where
  addrPolicy   := .fault
  linkOffset   := .zero
  shlFlag      := .lowNibbleEq1
  vfWriteOrder := .flagLast
  ldkAdvance   := .two
  ldkSelect    := .lowest

/-- MEM_SIZE: addresses 0x000 to 0xFFF exist (R9, R50). -/
def memSize : Nat := 4096

/-- PROG_BASE: the load address and the reset value of PC (R9, R24, R53). -/
def progBase : Nat := 0x200

/-- FONT_GLYPHS x GLYPH_BYTES (R9). -/
def fontSize : Nat := 80

/-- Glyphs 0 to 7 of the default font (R55). -/
def fontLow : List Byte :=
  [0xF0, 0x90, 0x90, 0x90, 0xF0,  0x20, 0x60, 0x20, 0x20, 0x70,  0xF0, 0x10, 0xF0, 0x80, 0xF0,
   0xF0, 0x10, 0xF0, 0x10, 0xF0,  0x90, 0x90, 0xF0, 0x10, 0x10,  0xF0, 0x80, 0xF0, 0x10, 0xF0,
   0xF0, 0x80, 0xF0, 0x90, 0xF0,  0xF0, 0x10, 0x20, 0x40, 0x40]

/-- Glyphs 8 to F of the default font (R55). -/
def fontHigh : List Byte :=
  [0xF0, 0x90, 0xF0, 0x90, 0xF0,  0xF0, 0x90, 0xF0, 0x10, 0xF0,  0xF0, 0x90, 0xF0, 0x90, 0x90,
   0xE0, 0x90, 0xE0, 0x90, 0xE0,  0xF0, 0x80, 0x80, 0x80, 0xF0,  0xE0, 0x90, 0x90, 0x90, 0xE0,
   0xF0, 0x80, 0xF0, 0x80, 0xF0,  0xF0, 0x80, 0xF0, 0x80, 0x80]

/-- The default of P_FONT, 16 glyphs of 5 bytes at address 0 (R55).  UNVERIFIED, unsafe (log 8): the spec supplies these
bytes from general knowledge. -/
def standardFont : List Byte := fontLow ++ fontHigh

/-- What an address reads as while nothing has been written to it: the font at 0x000-0x04F, 0 elsewhere (R41, R55).
The ONE definition of an unlisted address's value. -/
def resetByte (a : Nat) : Byte := standardFont.getD a 0

/-- The memory array as the list of the bytes that differ from `resetByte`, addresses strictly rising. -/
abbrev Memory := List Host.Cell

/-- The byte at an address. -/
def Memory.read : Memory → Nat → Byte
  | [], a => resetByte a
  | (k, b) :: m, a => if a = k then b else Memory.read m a

/-- The cell of one byte, none where the byte is what the unlisted address reads as. -/
def Memory.cell (a : Nat) (b : Byte) : Memory := if b = resetByte a then [] else [(a, b)]

/-- Write one byte and keep the canonical form. -/
def Memory.write : Memory → Nat → Byte → Memory
  | [], a, b => Memory.cell a b
  | (k, c) :: m, a, b =>
    if a < k then Memory.cell a b ++ (k, c) :: m
    else if a = k then Memory.cell a b ++ m
    else (k, c) :: Memory.write m a b

/-- The cells are canonical from address `lo` up. -/
def Memory.wfFrom : Nat → Memory → Bool
  | _, [] => true
  | lo, (k, b) :: m => decide (lo ≤ k) && decide (k < memSize) && (b != resetByte k) && Memory.wfFrom (k + 1) m

/-- The canonical form: addresses strictly rising and below `memSize`, no cell that holds its unlisted value. -/
def Memory.wf (m : Memory) : Bool := Memory.wfFrom 0 m

/-- Write bytes at ascending addresses. -/
def Memory.writeList : Memory → Nat → List Byte → Memory
  | m, _, [] => m
  | m, a, b :: bs => Memory.writeList (Memory.write m a b) (a + 1) bs

end Sys2Proof.Machine
end

