-- ==== Sys2Proof/Machine/State.lean ====
section
/-!
DEFINITION. The state of the CORE (spec 10_state.md R41), its ports (00_scope.md R5), the reasons a step can stop, and
the state after reset (70_reset_and_hazards.md R260).
-/

namespace Sys2Proof.Machine

/-- A fault of the MODEL stops a run.  There is none: every error of the spec is a described next state, in which the
CORE is halted with its error record (60_exceptions.md R233-R235, log 5).  No constructor, so no step can answer one. -/
inductive Fault
  deriving DecidableEq, Repr

/-- Why the model gives an instruction no meaning. -/
inductive Refusal where
  /-- Raised only by an arm of `exec` whose instruction has no meaning yet; safe.  No arm raises it. -/
  | notModelled (mnemonic : String)
  deriving DecidableEq, Repr

/-- The fatal errors of 60_exceptions.md R232. -/
inductive ErrorCause where
  | invalidOpcode
  | stackOverflow
  | stackUnderflow
  | memoryOutOfRange
  | keyIndexOutOfRange
  deriving DecidableEq, Repr

/-- The error record `Err` (R231).  `code` and `name` are `ErrorCause.code` and `ErrorCause.name` of the cause. -/
structure ErrorRecord where
  cause : ErrorCause
  pc    : Word
  /-- the fetched word, absent for a fetch fault -/
  w     : Option Word
  /-- the faulting address or the key value, absent otherwise -/
  arg   : Option Nat
  deriving DecidableEq, Repr

/-- What the host presents with one `step` strobe (R5). -/
structure PortInput where
  /-- bit k is `key_in[k]` -/
  keyIn : BitVec 16
  rndIn : Byte
  deriving DecidableEq, Repr

/-- The 64 x 32 framebuffer (R34): 32 rows from the top, bit c of a row is column c (log 20). -/
abbrev Framebuffer := Vector (BitVec 64) 32

/-- The state of the CORE (R41), its ports (R5) and the model's own bookkeeping. -/
structure State where
  /-- `Mem` (R35, R50) -/
  mem     : Memory
  /-- `V[0..15]`, VF = V[15] (R20, R21) -/
  v       : Vector Byte 16
  /-- `PC` (R24) -/
  pc      : Word
  /-- `I` (R28) -/
  i       : Word
  /-- `SP`, 0 is the empty sentinel (R27) -/
  sp      : Fin 16
  /-- `Stack[0..15]` (R32) -/
  stack   : Vector Word 16
  /-- `DT` (R29) -/
  dt      : Byte
  /-- `ST` (R30) -/
  st      : Byte
  /-- `FB` (R34) -/
  fb      : Framebuffer
  /-- `Keys`, bit k is `Keys[k]` (R33) -/
  keys    : BitVec 16
  /-- `w`, the current instruction (R36) -/
  w       : Word
  /-- `Dirty` (R37) -/
  dirty   : Bool
  /-- `Halted` (R38) -/
  halted  : Bool
  /-- `Err` (R38, R231) -/
  err     : Option ErrorRecord
  /-- output port: the `beep` pulse of the last strobe (R39, R107; log 3) -/
  beep    : Bool
  /-- output port: the `present` event of the last strobe (R108; log 3) -/
  present : Bool
  /-- input port: `rnd_in` of the current cycle (R5, R16) -/
  rndIn   : Byte
  /-- what the host presents in the coming cycles, the next cycle first (R268; log 1) -/
  inputs  : List PortInput
  /-- the model's own: the open parameters of R10; no step changes them (log 2) -/
  config  : Config
  /-- the model's own: how many free values have been drawn (log 1, log 13) -/
  draws   : Nat
  deriving DecidableEq, Repr

/-- What an instruction or a step answers. -/
abbrev Result := Host.Outcome State Fault Refusal

/-- The state after reset (R41, R260), with the default parameters and font.
The ports and the model's own fields are DESIGN CHOICES (log 3, log 13). -/
def State.reset : State where
  mem     := []
  v       := Vector.replicate 16 0
  pc      := BitVec.ofNat 16 progBase
  i       := 0
  sp      := 0
  stack   := Vector.replicate 16 0
  dt      := 0
  st      := 0
  fb      := Vector.replicate 32 0
  keys    := 0
  w       := 0
  dirty   := false
  halted  := false
  err     := none
  beep    := false
  present := false
  rndIn   := 0
  inputs  := []
  config  := defaultConfig
  draws   := 0

end Sys2Proof.Machine
end

