-- ==== Sys2Proof/Machine/Flags.lean ====
section
/-!
DEFINITION. The values VF takes (spec 10_state.md R26), each from the values before the instruction.
DRW's collision flag is computed by the draw itself (Machine/Ops.lean `drawSprite`).
-/

namespace Sys2Proof.Machine

/-- `bool(c)`: 1 if c holds, else 0 (R12). -/
def boolByte (c : Bool) : Byte := if c then 1 else 0

/-- ADD Vx,Vy: the unbounded sum exceeds 255 (R147). -/
def carryFlag (a b : Byte) : Byte := boolByte (decide (a.toNat + b.toNat > 255))

/-- SUB and SUBN: no borrow occurs, minuend >= subtrahend (R148, R150). -/
def notBorrowFlag (minuend subtrahend : Byte) : Byte := boolByte (decide (minuend.toNat ≥ subtrahend.toNat))

/-- SHR: the bit shifted out, bit 0 (R149). -/
def shrFlag (a : Byte) : Byte := a &&& 0x01

/-- SHL: the test P_SHL_FLAG names (R151). -/
def shlFlag (p : ShlFlag) (a : Byte) : Byte :=
  match p with
  | .lowNibbleEq1 => boolByte ((a &&& 0x0F) == 0x01)
  | .msb          => (a >>> 7) &&& 0x01

end Sys2Proof.Machine
end

