-- ==== Sys2Proof/Machine/Operands.lean ====
section
/-!
DEFINITION. The operand forms: registers, the 12-bit address, blocks of bytes at I (spec 43_index_memory.md R170), the
key a register names (45_input_timers.md R210), the pressed keys (00_scope.md R16), pixel positions (44_display.md R190).
-/

namespace Sys2Proof.Machine

/-- `V[x]` (R13). -/
def readReg (x : Reg) (s : State) : Byte := s.v[x]

/-- `zext_16(nnn)` (R71). -/
def zext16 (nnn : Addr12) : Word := nnn.zeroExtend 16

/-- `zext_16` of a byte. -/
def byteWord (b : Byte) : Word := b.zeroExtend 16

/-- `CheckAddr(a)` (R14): the address the access reaches, `none` where it raises MemoryOutOfRange(a). -/
def checkAddr (p : AddrPolicy) (a : Nat) : Option Nat :=
  match p with
  | .fault  => if a < memSize then some a else none
  | .mask12 => some (a % memSize)

/-- The first of the addresses that CheckAddr refuses; of ascending addresses it is the lowest (R61, R170). -/
def firstOutOfRange (p : AddrPolicy) (as : List Nat) : Option Nat :=
  as.find? (fun a => (checkAddr p a).isNone)

/-- `EA_j = base + j` for j = 0..n-1, unbounded (R170). -/
def blockAddrs (base : Word) (n : Nat) : List Nat := (List.range n).map (fun j => base.toNat + j)

/-- The addresses of LD [I],Vx and LD Vx,[I] (R175, R176): I to I + x. -/
def regBlockAddrs (x : Reg) (s : State) : List Nat := blockAddrs s.i (x.val + 1)

/-- The addresses of LD B,Vx (R174). -/
def bcdAddrs (s : State) : List Nat := blockAddrs s.i 3

/-- The addresses of DRW's sprite (R192): I to I + n - 1. -/
def spriteAddrs (n : RowCount) (s : State) : List Nat := blockAddrs s.i n.val

/-- The addresses of a fetch (R102); PC + 1 is computed without wrap. -/
def fetchAddrs (s : State) : List Nat := blockAddrs s.pc 2

/-- The three decimal digits of a byte, hundreds first (R174). -/
def bcdDigits (b : Byte) : List Byte :=
  [BitVec.ofNat 8 (b.toNat / 100), BitVec.ofNat 8 (b.toNat / 10 % 10), BitVec.ofNat 8 (b.toNat % 10)]

/-- `d * 5`, the address of a glyph (R56, R173). -/
def glyphAddr (b : Byte) : Word := BitVec.ofNat 16 (b.toNat * 5)

/-- The registers V0..Vx in ascending order (R175). -/
def regsUpTo (x : Reg) (s : State) : List Byte := s.v.toList.take (x.val + 1)

/-- `Keys[k]` (R33). -/
def keyDown (keys : BitVec 16) (k : Nat) : Bool := keys.getLsbD k

/-- `Pressed()` in ascending order (R16). -/
def pressedKeys (keys : BitVec 16) : List Nat := (List.range 16).filter (fun k => keyDown keys k)

/-- `FB[c, r]`; a position outside the grid holds no pixel and reads as off (R34, R190). -/
def pixel (fb : Framebuffer) (c r : Nat) : Bool := if h : r < 32 then fb[r].getLsbD c else false

/-- The value P_CALL_LINK_OFFSET stands for (R10). -/
def linkWord : LinkOffset → Word
  | .zero => 0
  | .two  => 2

/-- The value P_LDK_ADVANCE stands for (R10). -/
def ldkWord : LdkAdvance → Word
  | .two  => 2
  | .four => 4

end Sys2Proof.Machine
end

