-- ==== Sys2Proof/Machine/Ops.lean ====
section
/-!
DEFINITION. The named operations over registers, PC, call stack, memory and framebuffer that the meanings share, and
raising a fatal error (spec 60_exceptions.md R233-R235).  There is no return from an error (R235).
-/

namespace Sys2Proof.Machine

/-! ### Errors -/

/-- The code of R232. -/
def ErrorCause.code : ErrorCause → Nat
  | .invalidOpcode      => 1
  | .stackOverflow      => 2
  | .stackUnderflow     => 3
  | .memoryOutOfRange   => 4
  | .keyIndexOutOfRange => 5

/-- The name of R232. -/
def ErrorCause.name : ErrorCause → String
  | .invalidOpcode      => "InvalidOpcode"
  | .stackOverflow      => "StackOverflow"
  | .stackUnderflow     => "StackUnderflow"
  | .memoryOutOfRange   => "MemoryOutOfRange"
  | .keyIndexOutOfRange => "KeyIndexOutOfRange"

/-- Raise a fatal error (R234): `Halted <- 1; Err <- (code, name, pc, w, arg)` and nothing else. -/
def raise (cause : ErrorCause) (w : Option Word) (arg : Option Nat) (s : State) : State :=
  { s with halted := true, err := some { cause := cause, pc := s.pc, w := w, arg := arg } }

/-- Raise an error of the instruction being executed: its record holds the fetched word (R231). -/
def raiseAt (cause : ErrorCause) (arg : Option Nat) (s : State) : State := raise cause (some s.w) arg s

/-! ### Registers and PC -/

/-- `V[x] <- b` (R13). -/
def writeReg (x : Reg) (b : Byte) (s : State) : State := { s with v := s.v.set x.val b x.isLt }

/-- The two writes of a flag-producing ALU instruction, in the order of P_VF_WRITE_ORDER (R106). -/
def writeResultAndFlag (x : Reg) (result flag : Byte) (s : State) : State :=
  match s.config.vfWriteOrder with
  | .flagLast   => writeReg vf flag (writeReg x result s)
  | .resultLast => writeReg x result (writeReg vf flag s)

/-- `PC <- target` (R13). -/
def jumpTo (target : Word) (s : State) : State := { s with pc := target }

/-- `PC <- (PC + n) mod 2^16` (R25). -/
def advance (n : Word) (s : State) : State := { s with pc := s.pc + n }

/-- The PC write of an ordinary instruction (R25, R105). -/
def next2 (s : State) : State := advance 2 s

/-- The PC write of a conditional skip: 4 when the condition holds, else 2 (R25). -/
def skipIf (c : Bool) (s : State) : State := if c then advance 4 s else advance 2 s

/-- `I <- a` (R28). -/
def writeI (a : Word) (s : State) : State := { s with i := a }

/-! ### Call stack -/

/-- `Stack[SP + 1] <- t; SP <- SP + 1` (R121); the caller has checked SP < 15. -/
def pushReturn (t : Word) (s : State) : State :=
  { s with stack := s.stack.set (s.sp + 1).val t (s.sp + 1).isLt, sp := s.sp + 1 }

/-- `Stack[SP]` (R27). -/
def topReturn (s : State) : Word := s.stack[s.sp]

/-- `SP <- SP - 1`; the popped entry is kept (R32, R122).  The caller has checked SP > 0. -/
def popReturn (s : State) : State := { s with sp := s.sp - 1 }

/-! ### Memory -/

/-- Run `body` when CheckAddr admits every address, else raise MemoryOutOfRange naming the first bad one (R61, R170). -/
def checkAll (as : List Nat) (body : State → State) (s : State) : State :=
  match firstOutOfRange s.config.addrPolicy as with
  | some a => raiseAt .memoryOutOfRange (some a) s
  | none   => body s

/-- `MemRead(a, 1)` (R14).  Every caller has run `checkAll` first, so the `none` case is never reached. -/
def memRead (a : Nat) (s : State) : Byte :=
  match checkAddr s.config.addrPolicy a with
  | some e => s.mem.read e
  | none   => 0

/-- `MemWrite(a, 1, b)` (R14).  Every caller has run `checkAll` first, so the `none` case is never reached. -/
def memWrite (a : Nat) (b : Byte) (s : State) : State :=
  match checkAddr s.config.addrPolicy a with
  | some e => { s with mem := s.mem.write e b }
  | none   => s

/-- `MemWrite` of bytes at ascending addresses from `a` (R59). -/
def memWriteList : Nat → List Byte → State → State
  | _, [], s      => s
  | a, b :: bs, s => memWriteList (a + 1) bs (memWrite a b s)

/-- `MemRead` of `n` bytes at ascending addresses from `a` (R59). -/
def memReadList (a n : Nat) (s : State) : List Byte := (List.range n).map (fun j => memRead (a + j) s)

/-- `for j = 0 to n-1: V[j] <- MemRead(a + j, 1)` (R176); no write of a register changes a byte read. -/
def loadRegs (a : Nat) (x : Reg) (s : State) : State :=
  { s with v := Vector.ofFn (fun j => if j ≤ x then memRead (a + j.val) s else s.v[j]) }

/-! ### Framebuffer -/

/-- `FB[c, r] <- 0` for every pixel (R191). -/
def blankFb : Framebuffer := Vector.replicate 32 0

/-- `FB[c, r] <- FB[c, r] ^ 1` inside the grid; outside it nothing (R192, R194). -/
def togglePixel (fb : Framebuffer) (c r : Nat) : Framebuffer :=
  if h : c < 64 ∧ r < 32 then fb.set r (fb[r] ^^^ BitVec.twoPow 64 c) h.2 else fb

/-- A framebuffer being drawn on, with the collision seen so far. -/
abbrev Canvas := Framebuffer × Bool

/-- One 1 bit of the sprite at column c, row r: a pixel that was on is a hit; outside the grid nothing is drawn and
there is no pixel to hit. -/
def drawBit (c r : Nat) (d : Canvas) : Canvas := (togglePixel d.1 c r, d.2 || pixel d.1 c r)

/-- Bit 7 of a sprite byte is the leftmost pixel (R193): the bit drawn at column offset k. -/
def spriteBit (b : Byte) (k : Nat) : Bool := b.getLsbD (7 - k)

/-- Columns k, k+1, ..., k+n-1 of one sprite row at columns c0 + k and on. -/
def drawCols (b : Byte) (c0 r : Nat) : Nat → Nat → Canvas → Canvas
  | _, 0, d     => d
  | k, n + 1, d => drawCols b c0 r (k + 1) n (if spriteBit b k then drawBit (c0 + k) r d else d)

/-- One sprite row at row r (R192). -/
def drawRow (b : Byte) (c0 r : Nat) (d : Canvas) : Canvas := drawCols b c0 r 0 8 d

/-- The sprite rows at rows r, r+1, ... (R192). -/
def drawRows : List Byte → Nat → Nat → Canvas → Canvas
  | [], _, _, d       => d
  | b :: bs, c0, r, d => drawRows bs c0 (r + 1) (drawRow b c0 r d)

/-- The whole draw: the new framebuffer and the collision (R192). -/
def drawSprite (rows : List Byte) (c0 r0 : Nat) (fb : Framebuffer) : Canvas := drawRows rows c0 r0 (fb, false)

/-- Show a new framebuffer: it is written and `Dirty <- 1` (R37). -/
def writeFb (fb : Framebuffer) (s : State) : State := { s with fb := fb, dirty := true }

/-! ### Timers -/

/-- `DT <- b` (R215). -/
def writeDT (b : Byte) (s : State) : State := { s with dt := b }

/-- `ST <- b` (R216). -/
def writeST (b : Byte) (s : State) : State := { s with st := b }

/-- `dec0(t)`: t - 1, or 0 when t is 0 (R111). -/
def dec0 (t : Byte) : Byte := if t = 0 then 0 else t - 1

end Sys2Proof.Machine
end

