-- ==== Sys2Proof/Machine/Alu.lean ====
section
/-!
DEFINITION. Register loads, arithmetic, logic, shifts and RND (spec 42_alu.md R140-R152).
-/

namespace Sys2Proof.Machine

/-- LD Vx,kk (R141). -/
def execLdImm (x : Reg) (kk : Byte) (s : State) : Result := .next (next2 (writeReg x kk s))

/-- ADD Vx,kk (R142): mod 2^8, no flag. -/
def execAddImm (x : Reg) (kk : Byte) (s : State) : Result := .next (next2 (writeReg x (readReg x s + kk) s))

/-- LD Vx,Vy (R143). -/
def execLdReg (x y : Reg) (s : State) : Result := .next (next2 (writeReg x (readReg y s) s))

/-- OR Vx,Vy (R144). -/
def execOrReg (x y : Reg) (s : State) : Result := .next (next2 (writeReg x (readReg x s ||| readReg y s) s))

/-- AND Vx,Vy (R145). -/
def execAndReg (x y : Reg) (s : State) : Result := .next (next2 (writeReg x (readReg x s &&& readReg y s) s))

/-- XOR Vx,Vy (R146). -/
def execXorReg (x y : Reg) (s : State) : Result := .next (next2 (writeReg x (readReg x s ^^^ readReg y s) s))

/-- ADD Vx,Vy (R147). -/
def execAddReg (x y : Reg) (s : State) : Result :=
  .next (next2 (writeResultAndFlag x (readReg x s + readReg y s) (carryFlag (readReg x s) (readReg y s)) s))

/-- SUB Vx,Vy (R148). -/
def execSubReg (x y : Reg) (s : State) : Result :=
  .next (next2 (writeResultAndFlag x (readReg x s - readReg y s) (notBorrowFlag (readReg x s) (readReg y s)) s))

/-- SHR Vx (R149). -/
def execShr (x : Reg) (s : State) : Result :=
  .next (next2 (writeResultAndFlag x (readReg x s >>> 1) (shrFlag (readReg x s)) s))

/-- SUBN Vx,Vy (R150). -/
def execSubnReg (x y : Reg) (s : State) : Result :=
  .next (next2 (writeResultAndFlag x (readReg y s - readReg x s) (notBorrowFlag (readReg y s) (readReg x s)) s))

/-- SHL Vx (R151). -/
def execShl (x : Reg) (s : State) : Result :=
  .next (next2 (writeResultAndFlag x (readReg x s * 2) (shlFlag s.config.shlFlag (readReg x s)) s))

/-- RND Vx,kk (R152): the random byte is the host's input of this cycle (R16). -/
def execRnd (x : Reg) (kk : Byte) (s : State) : Result := .next (next2 (writeReg x (s.rndIn &&& kk) s))

end Sys2Proof.Machine
end

