-- ==== Sys2Proof/Machine/ControlFlow.lean ====
section
/-!
DEFINITION. CALL, RET, JP, JP V0, SE and SNE (spec 41_control_flow.md R120-R128).
-/

namespace Sys2Proof.Machine

/-- RET (R122): the "standard +2" is applied after the pop. -/
def execRet (s : State) : Result :=
  .next (if s.sp = 0 then raiseAt .stackUnderflow none s else jumpTo (topReturn s + 2) (popReturn s))

/-- JP nnn (R123). -/
def execJp (nnn : Addr12) (s : State) : Result := .next (jumpTo (zext16 nnn) s)

/-- CALL nnn (R121): pushes its own address plus P_CALL_LINK_OFFSET. -/
def execCall (nnn : Addr12) (s : State) : Result :=
  .next (if s.sp = 15 then raiseAt .stackOverflow none s
    else jumpTo (zext16 nnn) (pushReturn (s.pc + linkWord s.config.linkOffset) s))

/-- SE Vx,kk (R125). -/
def execSeImm (x : Reg) (kk : Byte) (s : State) : Result := .next (skipIf (readReg x s == kk) s)

/-- SNE Vx,kk (R126). -/
def execSneImm (x : Reg) (kk : Byte) (s : State) : Result := .next (skipIf (readReg x s != kk) s)

/-- SE Vx,Vy (R127). -/
def execSeReg (x y : Reg) (s : State) : Result := .next (skipIf (readReg x s == readReg y s) s)

/-- SNE Vx,Vy (R128). -/
def execSneReg (x y : Reg) (s : State) : Result := .next (skipIf (readReg x s != readReg y s) s)

/-- JP V0,nnn (R124): the sum fits in 16 bits and is not masked. -/
def execJpV0 (nnn : Addr12) (s : State) : Result := .next (jumpTo (zext16 nnn + byteWord (readReg 0 s)) s)

end Sys2Proof.Machine
end

