-- ==== Sys2Proof/Machine/Display.lean ====
section
/-!
DEFINITION. CLS and DRW (spec 44_display.md R190-R195).
-/

namespace Sys2Proof.Machine

/-- CLS (R191). -/
def execCls (s : State) : Result := .next (next2 (writeFb blankFb s))

/-- The draw of DRW once its addresses are checked: framebuffer and collision, from the state before it (R192). -/
def drawAtRegs (x y : Reg) (n : RowCount) (s : State) : Canvas :=
  drawSprite (memReadList s.i.toNat n.val s) (readReg x s).toNat (readReg y s).toNat s.fb

/-- DRW Vx,Vy,n (R192): every row is checked and read; the coordinates are read before VF is written. -/
def execDrw (x y : Reg) (n : RowCount) (s : State) : Result :=
  .next (checkAll (spriteAddrs n s)
    (fun t => next2 (writeFb (drawAtRegs x y n t).1 (writeReg vf (boolByte (drawAtRegs x y n t).2) t))) s)

end Sys2Proof.Machine
end

