-- ==== Sys2Proof/Machine/IndexMemory.lean ====
section
/-!
DEFINITION. The index register, BCD, block store and block load (spec 43_index_memory.md R170-R176).
-/

namespace Sys2Proof.Machine

/-- LD I,nnn (R171). -/
def execLdI (nnn : Addr12) (s : State) : Result := .next (next2 (writeI (zext16 nnn) s))

/-- ADD I,Vx (R172): mod 2^16, no flag. -/
def execAddIVx (x : Reg) (s : State) : Result := .next (next2 (writeI (s.i + byteWord (readReg x s)) s))

/-- LD F,Vx (R173): the whole byte is multiplied. -/
def execLdFVx (x : Reg) (s : State) : Result := .next (next2 (writeI (glyphAddr (readReg x s)) s))

/-- LD B,Vx (R174). -/
def execLdBVx (x : Reg) (s : State) : Result :=
  .next (checkAll (bcdAddrs s) (fun t => next2 (memWriteList t.i.toNat (bcdDigits (readReg x t)) t)) s)

/-- LD [I],Vx (R175): I is unchanged. -/
def execStRegs (x : Reg) (s : State) : Result :=
  .next (checkAll (regBlockAddrs x s) (fun t => next2 (memWriteList t.i.toNat (regsUpTo x t) t)) s)

/-- LD Vx,[I] (R176): I is unchanged. -/
def execLdRegs (x : Reg) (s : State) : Result :=
  .next (checkAll (regBlockAddrs x s) (fun t => next2 (loadRegs t.i.toNat x t)) s)

end Sys2Proof.Machine
end

