-- ==== Sys2Proof/Machine/KeysTimers.lean ====
section
/-!
DEFINITION. Key skips, key wait and the timer registers (spec 45_input_timers.md R210-R216).
-/

namespace Sys2Proof.Machine

/-- Skip on the state of the key V[x] names; a value of 16 or more names no key and raises KeyIndexOutOfRange (R210). -/
def keySkip (x : Reg) (whenDown : Bool) (s : State) : State :=
  if (readReg x s).toNat < 16 then skipIf (keyDown s.keys (readReg x s).toNat == whenDown) s
  else raiseAt .keyIndexOutOfRange (some (readReg x s).toNat) s

/-- SKP Vx (R211). -/
def execSkp (x : Reg) (s : State) : Result := .next (keySkip x true s)

/-- SKNP Vx (R212). -/
def execSknp (x : Reg) (s : State) : Result := .next (keySkip x false s)

/-- LD Vx,DT (R213). -/
def execLdVxDt (x : Reg) (s : State) : Result := .next (next2 (writeReg x s.dt s))

/-- The key LD Vx,K takes from the pressed keys `k :: ks`, in ascending order (R214): the lowest, or a free draw. -/
def chooseKey (k : Nat) (ks : List Nat) (s : State) : Nat :=
  match s.config.ldkSelect with
  | .lowest     => k
  | .anyPressed => (k :: ks).getD (Config.freePick s.draws % (k :: ks).length) k

/-- A draw of AnyPressed uses up one free value (log 12). -/
def countDraw (s : State) : State :=
  match s.config.ldkSelect with
  | .lowest     => s
  | .anyPressed => { s with draws := s.draws + 1 }

/-- LD Vx,K on a key vector's pressed keys (R214): with none, PC stays and nothing is written. -/
def waitKey (x : Reg) (pressed : List Nat) (s : State) : State :=
  match pressed with
  | []      => s
  | k :: ks => advance (ldkWord s.config.ldkAdvance) (writeReg x (BitVec.ofNat 8 (chooseKey k ks s)) (countDraw s))

/-- LD Vx,K (R214). -/
def execLdVxK (x : Reg) (s : State) : Result := .next (waitKey x (pressedKeys s.keys) s)

/-- LD DT,Vx (R215). -/
def execLdDtVx (x : Reg) (s : State) : Result := .next (next2 (writeDT (readReg x s) s))

/-- LD ST,Vx (R216). -/
def execLdStVx (x : Reg) (s : State) : Result := .next (next2 (writeST (readReg x s) s))

end Sys2Proof.Machine
end

