-- ==== Sys2Proof/Machine/Cycle.lean ====
section
/-!
DEFINITION. One cycle of the execution engine (spec 40_cycle.md R100-R111): key snapshot, fetch, decode and execute,
timer step, present; and placing a word where the next cycle fetches.
-/

namespace Sys2Proof.Machine

/-- The output pulses of a strobe that runs nothing are 0 (R109). -/
def quiet (s : State) : State := { s with beep := false, present := false }

/-- The inputs the host presents in the coming cycle: the head of `inputs`, or free values where the list names none. -/
def takeInput (s : State) : PortInput × State :=
  match s.inputs with
  | p :: rest => (p, { s with inputs := rest })
  | []        => (⟨Config.freeKeyIn s.draws, Config.freeRndIn s.draws⟩, { s with draws := s.draws + 1 })

/-- Step (a): `Keys <- key_in` (R101); `rnd_in` is held for the cycle (R16); the outputs start the cycle at 0. -/
def snapshot (s : State) : State :=
  { (takeInput s).2 with
    keys := (takeInput s).1.keyIn, rndIn := (takeInput s).1.rndIn, beep := false, present := false }

/-- Step (b): both addresses are checked, then the big-endian word is read; an error names the lowest bad address
(R57, R102). -/
def fetch (s : State) : Except Nat Word :=
  match firstOutOfRange s.config.addrPolicy (fetchAddrs s) with
  | some a => .error a
  | none   => .ok (wordOfBytes (memRead s.pc.toNat s) (memRead (s.pc.toNat + 1) s))

/-- Step (d) (R107). -/
def timerStep (s : State) : State := { s with beep := s.st == 1, dt := dec0 s.dt, st := dec0 s.st }

/-- Step (e) (R108). -/
def presentStep (s : State) : State := { s with present := s.dirty, dirty := false }

/-- Steps (d) and (e), which a cycle that raised an error does not run (R110). -/
def finish (s : State) : State := if s.halted then s else presentStep (timerStep s)

/-- Steps (d) and (e) after an instruction that answered a next state. -/
def afterExec : Result → Result
  | .next t    => .next (finish t)
  | .fault r   => .fault r
  | .refused r => .refused r

/-- Step (c) on a fetched word, then (d) and (e) (R103, R104). -/
def runWord (w : Word) (s : State) : Result :=
  match decodeWord w with
  | none   => .next (raise .invalidOpcode (some w) none s)
  | some i => afterExec (exec i s)

/-- Steps (b) to (e): `w` holds the fetched word from fetch on (R36). -/
def runCycle (s : State) : Result :=
  match fetch s with
  | .error a => .next (raise .memoryOutOfRange none (some a) s)
  | .ok w    => runWord w { s with w := w }

/-- One strobe (R109, R111). -/
def strobe (s : State) : Result := if s.halted then .next (quiet s) else runCycle (snapshot s)

/-- A running state whose PC can be fetched from; changes nothing where the state is one already. -/
def fetchable (s : State) : State :=
  let t := if s.halted then { s with halted := false, err := none } else s
  match firstOutOfRange t.config.addrPolicy (fetchAddrs t) with
  | some _ => jumpTo (BitVec.ofNat 16 progBase) t
  | none   => t

/-- Store a word where the next cycle fetches, high byte at the lower address (R57). -/
def placeWord (w : Word) (s : State) : State :=
  let t := fetchable s
  memWrite (t.pc.toNat + 1) (lowByte w) (memWrite t.pc.toNat (highByte w) t)

end Sys2Proof.Machine
end

