-- ==== Sys2Proof/Machine/Step.lean ====
section
/-!
DEFINITION. The step of the machine: one cycle (spec 40_cycle.md R111); and placing an instruction where the next
step fetches it.
-/

namespace Sys2Proof.Machine

/-- One strobe of the CORE. -/
def step (s : State) : Host.Outcome State Fault Refusal := strobe s

/-- The state with the instruction of an opcode-table word stored where `step` fetches next (log 7). -/
def State.withFetchWord (s : State) (nbits w : Nat) : State := placeWord (tableWord nbits w) s

end Sys2Proof.Machine
end

