-- ==== Sys2Proof/WellFormed.lean ====
section
/-!
DEFINITION. When an instruction's operands fit the fields of its word (spec 00_scope.md R17, 30_encoding.md R71), and
when a program image fits the program area (70_reset_and_hazards.md R262).
The operand types of `Instr` already have the fields' widths, so every `Instr` passes `Instr.wellFormed`
(Laws/PerInstr.lean proves it constructor by constructor); the check itself is on plain numbers and refuses a number
its field cannot hold.
-/

namespace Sys2Proof

/-- The operand fields of an instruction word (R17). -/
inductive Field where
  | x
  | y
  | kk
  | nnn
  | n
  deriving DecidableEq, Repr

/-- A field and the unsigned number it is to hold. -/
structure Operand where
  field : Field
  value : Nat
  deriving DecidableEq, Repr

/-- The width of a field in bits (R17, R71). -/
def Field.width : Field → Nat
  | .x   => 4
  | .y   => 4
  | .kk  => 8
  | .nnn => 12
  | .n   => 4

/-- The number is one the field can hold. -/
def Operand.fits (o : Operand) : Bool := decide (o.value < 2 ^ o.field.width)

/-- The operands of an instruction as numbers, in the order of its syntax (R81). -/
def Instr.operands : Instr → List Operand
  | .cls        => []
  | .ret        => []
  | .jp nnn     => [⟨.nnn, nnn.toNat⟩]
  | .call nnn   => [⟨.nnn, nnn.toNat⟩]
  | .seImm x k  => [⟨.x, x⟩, ⟨.kk, k.toNat⟩]
  | .sneImm x k => [⟨.x, x⟩, ⟨.kk, k.toNat⟩]
  | .seReg x y  => [⟨.x, x⟩, ⟨.y, y⟩]
  | .ldImm x k  => [⟨.x, x⟩, ⟨.kk, k.toNat⟩]
  | .addImm x k => [⟨.x, x⟩, ⟨.kk, k.toNat⟩]
  | .ldReg x y  => [⟨.x, x⟩, ⟨.y, y⟩]
  | .orReg x y  => [⟨.x, x⟩, ⟨.y, y⟩]
  | .andReg x y => [⟨.x, x⟩, ⟨.y, y⟩]
  | .xorReg x y => [⟨.x, x⟩, ⟨.y, y⟩]
  | .addReg x y => [⟨.x, x⟩, ⟨.y, y⟩]
  | .subReg x y => [⟨.x, x⟩, ⟨.y, y⟩]
  | .shr x      => [⟨.x, x⟩]
  | .subnReg x y => [⟨.x, x⟩, ⟨.y, y⟩]
  | .shl x      => [⟨.x, x⟩]
  | .sneReg x y => [⟨.x, x⟩, ⟨.y, y⟩]
  | .ldI nnn    => [⟨.nnn, nnn.toNat⟩]
  | .jpV0 nnn   => [⟨.nnn, nnn.toNat⟩]
  | .rnd x k    => [⟨.x, x⟩, ⟨.kk, k.toNat⟩]
  | .drw x y n  => [⟨.x, x⟩, ⟨.y, y⟩, ⟨.n, n⟩]
  | .skp x      => [⟨.x, x⟩]
  | .sknp x     => [⟨.x, x⟩]
  | .ldVxDt x   => [⟨.x, x⟩]
  | .ldVxK x    => [⟨.x, x⟩]
  | .ldDtVx x   => [⟨.x, x⟩]
  | .ldStVx x   => [⟨.x, x⟩]
  | .addIVx x   => [⟨.x, x⟩]
  | .ldFVx x    => [⟨.x, x⟩]
  | .ldBVx x    => [⟨.x, x⟩]
  | .stRegs x   => [⟨.x, x⟩]
  | .ldRegs x   => [⟨.x, x⟩]

/-- Every operand fits its field. -/
def Instr.wellFormed (i : Instr) : Bool := i.operands.all Operand.fits

/-- ROM_MAX: the most bytes a program image may have (R9, R262): 4096 - 0x200. -/
def romMax : Nat := 3584

/-- The image is one `load` accepts (R262). -/
def imageFits (bytes : List Byte) : Bool := decide (bytes.length ≤ romMax)

end Sys2Proof
end

