-- ==== Sys2Proof/Machine/Ports.lean ====
section
/-!
DEFINITION. The host's moves (spec 70_reset_and_hazards.md R268): create (00_scope.md R10, R260), load a program image
(R262), step (40_cycle.md R111), observe; and which of them are offered when (R263).
-/

namespace Sys2Proof.Machine

/-! ### What the moves do to a CORE -/

/-- The reset state under parameters `c` and the font table `font` (P_FONT) at 0x000 (R10, R55, R260). -/
def State.resetWith (c : Config) (font : Vector Byte 80) : State :=
  { State.reset with config := c, mem := Memory.writeList [] 0 font.toList }

/-- `Mem[0x200 + i] <- bytes[i]` (R262), the effect of a successful load.  No move by itself: `Session.move` alone says
when the host has it. -/
def copyImage (bytes : List Byte) (s : State) : State := { s with mem := s.mem.writeList progBase bytes }

/-- The host presents `key_in` and `rnd_in` with a strobe (R5, R268). -/
def presentInput (p : PortInput) (s : State) : State := { s with inputs := [p] }

/-- What the host sees after a strobe (R114). -/
structure HostView where
  fb      : Framebuffer
  dirty   : Bool
  beep    : Bool
  present : Bool
  halted  : Bool
  err     : Option ErrorRecord
  deriving DecidableEq, Repr

/-- The outputs of the CORE (R5, R114). -/
def State.hostView (s : State) : HostView :=
  { fb := s.fb, dirty := s.dirty, beep := s.beep, present := s.present, halted := s.halted, err := s.err }

/-- What the host reads between cycles (R268). -/
structure Observation where
  fb     : Framebuffer
  dirty  : Bool
  halted : Bool
  err    : Option ErrorRecord
  deriving DecidableEq, Repr

/-- The outputs the host may read between cycles (R268). -/
def State.observation (s : State) : Observation :=
  { fb := s.fb, dirty := s.dirty, halted := s.halted, err := s.err }

/-! ### The moves, and when they are offered -/

/-- The interactions of R268. -/
inductive HostMove where
  | create (c : Config) (font : Vector Byte 80)
  | load (bytes : List Byte)
  | step (p : PortInput)
  | observe
  deriving DecidableEq, Repr

/-- What the CORE gives back (R268). -/
inductive HostReply where
  | created
  | loaded
  | romTooLarge
  | stepped (view : HostView)
  | observed (o : Observation)
  deriving DecidableEq, Repr

/-- Where the host stands in the boot order of R263.  The stage is the host's and no state of the CORE (log 15). -/
inductive Session where
  /-- no Machine State has been created -/
  | absent
  /-- created, and `load` has not been called -/
  | created (s : State)
  /-- `load` answered RomTooLarge: the host does not run this CORE -/
  | rejected (s : State)
  /-- `load` succeeded: the launch state of R269 and every state the strobes take it to -/
  | running (s : State)
  deriving DecidableEq, Repr

/-- The CORE of a session. -/
def Session.state : Session → Option State
  | .absent     => none
  | .created s  => some s
  | .rejected s => some s
  | .running s  => some s

/-- The load port of a created CORE (R262). -/
def loadPort (bytes : List Byte) (s : State) : HostReply × Session :=
  if imageFits bytes then (.loaded, .running (copyImage bytes s)) else (.romTooLarge, .rejected s)

/-- The outputs of a strobe and the session after it (R268). -/
def strobeReply : Result → Option (HostReply × Session)
  | .next t    => some (.stepped t.hostView, .running t)
  | .fault _   => none
  | .refused _ => none

/-- `load` is called once, after create and before the first strobe (R262, R263, R268); else it is no move. -/
def Session.load (bytes : List Byte) : Session → Option (HostReply × Session)
  | .absent     => none
  | .created s  => some (loadPort bytes s)
  | .rejected _ => none
  | .running _  => none

/-- A strobe is given to a loaded CORE (R263, R268), a halted one included. -/
def Session.strobe (p : PortInput) : Session → Option (HostReply × Session)
  | .absent     => none
  | .created _  => none
  | .rejected _ => none
  | .running s  => strobeReply (step (presentInput p s))

/-- The host's interactions with a CORE (R268), `none` where the model gives the host no such move. -/
def Session.move (m : HostMove) (σ : Session) : Option (HostReply × Session) :=
  match m with
  | .create c font => some (.created, .created (State.resetWith c font))
  | .load bytes    => σ.load bytes
  | .step p        => σ.strobe p
  | .observe       => σ.state.map (fun s => (.observed s.observation, σ))

end Sys2Proof.Machine
end

