-- ==== Sys2Proof/Safety.lean ====
section
/-!
DEFINITION. The terms in which claims about the CORE are stated: the parts of the state and frames, what raising an
error leaves, the writers the spec names, the consistent states, and safe runs.
-/

namespace Sys2Proof.Machine

/-! ### Encodings -/

/-- A row of R74: every word that the mask and match value select decodes to the instruction `f` reads from its fields. -/
def Selects (mask value : Word) (f : Word → Instr) : Prop :=
  ∀ w : Word, w &&& mask = value → decodeWord w = some (f w)

/-- The number a word's field holds (R17). -/
def fieldValue (w : Word) : Field → Nat
  | .x   => w.toNat / 256 % 16
  | .y   => w.toNat / 16 % 16
  | .kk  => w.toNat % 256
  | .nnn => w.toNat % 4096
  | .n   => w.toNat % 16

/-! ### Parts of the state and frames -/

/-- The parts of the state a claim speaks about. -/
inductive Part where
  | memory
  | regs
  | pc
  | index
  | stack
  | delay
  | sound
  | framebuffer
  | dirty
  | keys
  | word
  | status
  | pulses
  | inputs
  | config
  | draws
  deriving DecidableEq, Repr

/-- Part `p` is the same in `s` and `t`; memory through the read of every byte. -/
def Unchanged (p : Part) (s t : State) : Prop :=
  match p with
  | .memory      => ∀ a, t.mem.read a = s.mem.read a
  | .regs        => ∀ r, readReg r t = readReg r s
  | .pc          => t.pc = s.pc
  | .index       => t.i = s.i
  | .stack       => t.sp = s.sp ∧ t.stack = s.stack
  | .delay       => t.dt = s.dt
  | .sound       => t.st = s.st
  | .framebuffer => t.fb = s.fb
  | .dirty       => t.dirty = s.dirty
  | .keys        => t.keys = s.keys
  | .word        => t.w = s.w
  | .status      => t.halted = s.halted ∧ t.err = s.err
  | .pulses      => t.beep = s.beep ∧ t.present = s.present
  | .inputs      => t.inputs = s.inputs ∧ t.rndIn = s.rndIn
  | .config      => t.config = s.config
  | .draws       => t.draws = s.draws

/-- Every part but the ones listed is the same in `s` and `t`. -/
def ChangesOnly (ps : List Part) (s t : State) : Prop := ∀ p, p ∉ ps → Unchanged p s t

/-- Every register but the ones listed is the same in `s` and `t`. -/
def KeepsRegs (xs : List Reg) (s t : State) : Prop := ∀ r, r ∉ xs → readReg r t = readReg r s

/-- `PC <- (PC + n) mod 2^16` (R25). -/
def PcPlus (n : Nat) (s t : State) : Prop := t.pc.toNat = (s.pc.toNat + n) % 65536

/-- `t` is `s` after an instruction raised the error (R110, R234): the status changes and nothing else. -/
def Raised (cause : ErrorCause) (arg : Option Nat) (s t : State) : Prop :=
  t.halted = true ∧ t.err = some ⟨cause, s.pc, some s.w, arg⟩ ∧ ChangesOnly [.status] s t

/-- An ordinary instruction whose one effect beside PC is to put the number `n` into V[x]. -/
def LoadsReg (x : Reg) (n : Nat) (s t : State) : Prop :=
  (readReg x t).toNat = n ∧ KeepsRegs [x] s t ∧ PcPlus 2 s t ∧ ChangesOnly [.regs, .pc] s t

/-- An ordinary instruction that writes a result to V[x] and a flag to VF in the order of R106. -/
def WritesResultAndFlag (x : Reg) (result flag : Nat) (s t : State) : Prop :=
  (x ≠ vf → (readReg x t).toNat = result ∧ (readReg vf t).toNat = flag) ∧
  (x = vf → s.config.vfWriteOrder = .flagLast → (readReg vf t).toNat = flag) ∧
  (x = vf → s.config.vfWriteOrder = .resultLast → (readReg vf t).toNat = result) ∧
  KeepsRegs [x, vf] s t ∧ PcPlus 2 s t ∧ ChangesOnly [.regs, .pc] s t

/-- A conditional skip: PC advances by 4 where the condition holds, by 2 where it does not, and nothing else happens. -/
def SkipsWhen (c : Prop) (s t : State) : Prop :=
  (c → PcPlus 4 s t) ∧ (¬ c → PcPlus 2 s t) ∧ ChangesOnly [.pc] s t

/-- An instruction that accesses the `n` bytes at I raises MemoryOutOfRange: the policy is Fault, there is a byte to
access and the last one lies outside memory (R60, R61). -/
def BlockOutside (n : Nat) (s : State) : Prop :=
  s.config.addrPolicy = .fault ∧ 1 ≤ n ∧ 0x1000 ≤ s.i.toNat + n - 1

/-- After a block store of `bytes` at I: byte j is at the address CheckAddr gives I + j, every other address keeps its
byte (R170, R174, R175). -/
def StoresBlock (bytes : List Byte) (s t : State) : Prop :=
  (∀ j e, (h : j < bytes.length) → checkAddr s.config.addrPolicy (s.i.toNat + j) = some e → t.mem.read e = bytes[j]) ∧
  (∀ e, (∀ j < bytes.length, checkAddr s.config.addrPolicy (s.i.toNat + j) ≠ some e) → t.mem.read e = s.mem.read e)

/-- The pixel (c, r) lies under a 1 bit of the sprite DRW draws (R192, R193): row j of the sprite is the byte at I + j,
drawn at row V[y] + j; bit 7 is the column V[x]. -/
def UnderSprite (x y : Reg) (n : RowCount) (s : State) (c r : Nat) : Prop :=
  (readReg x s).toNat ≤ c ∧ c < (readReg x s).toNat + 8 ∧ (readReg y s).toNat ≤ r ∧ r < (readReg y s).toNat + n.val ∧
  (memRead (s.i.toNat + (r - (readReg y s).toNat)) s).getLsbD (7 - (c - (readReg x s).toNat)) = true

/-! ### The writers the spec names -/

/-- The registers an instruction may write (the "writes" column of R22). -/
def writtenRegs : Instr → List Reg
  | .cls        => []
  | .ret        => []
  | .jp _       => []
  | .call _     => []
  | .seImm _ _  => []
  | .sneImm _ _ => []
  | .seReg _ _  => []
  | .ldImm x _  => [x]
  | .addImm x _ => [x]
  | .ldReg x _  => [x]
  | .orReg x _  => [x]
  | .andReg x _ => [x]
  | .xorReg x _ => [x]
  | .addReg x _ => [x, vf]
  | .subReg x _ => [x, vf]
  | .shr x      => [x, vf]
  | .subnReg x _ => [x, vf]
  | .shl x      => [x, vf]
  | .sneReg _ _ => []
  | .ldI _      => []
  | .jpV0 _     => []
  | .rnd x _    => [x]
  | .drw _ _ _  => [vf]
  | .skp _      => []
  | .sknp _     => []
  | .ldVxDt x   => [x]
  | .ldVxK x    => [x]
  | .ldDtVx _   => []
  | .ldStVx _   => []
  | .addIVx _   => []
  | .ldFVx _    => []
  | .ldBVx _    => []
  | .stRegs _   => []
  | .ldRegs x   => (List.finRange 16).filter (fun r => r ≤ x)

/-- CALL and RET, the writers of SP and the stack (R27, R32). -/
def writesStack : Instr → Bool
  | .call _ => true
  | .ret    => true
  | _       => false

/-- LD I, ADD I and LD F, the writers of I (R28). -/
def writesIndex : Instr → Bool
  | .ldI _    => true
  | .addIVx _ => true
  | .ldFVx _  => true
  | _         => false

/-- LD B and LD [I],Vx, the writers of memory (R52). -/
def writesMemory : Instr → Bool
  | .ldBVx _  => true
  | .stRegs _ => true
  | _         => false

/-- CLS and DRW, the writers of FB and Dirty (R34, R37). -/
def writesDisplay : Instr → Bool
  | .cls       => true
  | .drw _ _ _ => true
  | _          => false

/-- SKP, SKNP and LD Vx,K, the readers of Keys (R33). -/
def readsKeys : Instr → Bool
  | .skp _   => true
  | .sknp _  => true
  | .ldVxK _ => true
  | _        => false

/-- The one kind of error an instruction can raise in its execute step (R237), if any. -/
def executeError : Instr → Option ErrorCause
  | .call _    => some .stackOverflow
  | .ret       => some .stackUnderflow
  | .skp _     => some .keyIndexOutOfRange
  | .sknp _    => some .keyIndexOutOfRange
  | .drw _ _ _ => some .memoryOutOfRange
  | .ldBVx _   => some .memoryOutOfRange
  | .stRegs _  => some .memoryOutOfRange
  | .ldRegs _  => some .memoryOutOfRange
  | _          => none

/-- A function of the next state. -/
def mapNext (f : State → State) : Result → Result
  | .next t    => .next (f t)
  | .fault r   => .fault r
  | .refused r => .refused r

/-! ### Cycles -/

/-- The instruction the next cycle executes, if its fetch and decode succeed (R102, R103). -/
def fetchedInstr (s : State) : Option Instr :=
  match fetch s with
  | .ok w    => decodeWord w
  | .error _ => none

/-- The state in which the execute step of the next cycle starts, when it fetches the word `w`: after the key snapshot,
with `w` held (R36, R101, R104). -/
def executeState (w : Word) (s : State) : State := { snapshot s with w := w }

/-- What a cycle that raises an error may change: the status, and what steps (a) and (b) set (R110, R233). -/
def errorCycleParts : List Part := [.keys, .word, .status, .pulses, .inputs, .draws]

/-! ### Consistent states and safe runs -/

/-- `Halted` and `Err` agree, and the record describes the state it was raised in (R231, R232, R233). -/
def ErrorMatches (s : State) : Prop :=
  match s.err with
  | none   => s.halted = false
  | some e =>
    s.halted = true ∧ e.pc = s.pc ∧
    match e.cause with
    | .invalidOpcode      => e.arg = none ∧ ∃ w, e.w = some w ∧ decodeWord w = none
    | .stackOverflow      => e.arg = none ∧ s.sp = 15 ∧ ∃ w nnn, e.w = some w ∧ decodeWord w = some (.call nnn)
    | .stackUnderflow     => e.arg = none ∧ s.sp = 0 ∧ ∃ w, e.w = some w ∧ decodeWord w = some .ret
    | .memoryOutOfRange   =>
      s.config.addrPolicy = .fault ∧
      ((e.w = none ∧ 0xFFF ≤ s.pc.toNat ∧ e.arg = some (max s.pc.toNat 0x1000)) ∨
        (e.arg = some (max s.i.toNat 0x1000) ∧
          ∃ w i, e.w = some w ∧ decodeWord w = some i ∧ executeError i = some .memoryOutOfRange))
    | .keyIndexOutOfRange =>
      ∃ w x, e.w = some w ∧ (decodeWord w = some (.skp x) ∨ decodeWord w = some (.sknp x)) ∧
        16 ≤ (readReg x s).toNat ∧ e.arg = some (readReg x s).toNat

/-- The states between cycles: memory canonical, nothing left to present (R114), the error record true of the state,
no output pulse of a halted CORE (R109). -/
structure Inv (s : State) : Prop where
  memCanonical : s.mem.wf = true
  presented    : s.dirty = false
  errorMatches : ErrorMatches s
  haltedQuiet  : s.halted = true → s.beep = false ∧ s.present = false

/-- A safe run: `k` strobes from `s` end in a running CORE, no error was raised (R267). -/
def RunsSafely (k : Nat) (s : State) : Prop := ∃ t, Sys2Proof.core.run k s = .next t ∧ t.halted = false

end Sys2Proof.Machine
end

