-- ==== Sys2Proof/Certificates/Slice0/Obligations.lean ====
section
/-!
DEFINITION. The statements for the provers.  Every `exec` statement holds in every state and under every setting of the
open parameters unless it names one; a statement about bytes stored assumes the canonical memory, an invariant that
`Obligations.EveryStepKeepsTheInvariant` says every step keeps.
-/

open Sys2Proof Sys2Proof.Machine

/-! ### Decoding and encoding -/

/-- R70, R72-R74: no operand bit of an encoding is dropped.  The ignored bits the encoder writes are the model's choice
(log 16). -/
def Obligations.DecodeInvertsEncode : Prop :=
  ∀ (i : Instr) (rest : List Byte), i.wellFormed = true →
    decodeWord (encode i) = some i ∧ decodeBytes (encodeBytes i ++ rest) = .instr i rest

/-- R17, R71: each operand of a decoded instruction is the unsigned number its field of the word holds. -/
def Obligations.OperandsAreTheFieldsOfTheWord : Prop :=
  ∀ (w : Word) (i : Instr), decodeWord w = some i → ∀ o ∈ i.operands, o.value = fieldValue w o.field

/-- R77: a bit that decoding ignores may hold any value, every other bit is the encoder's. -/
def Obligations.IgnoredBitsSelectTheSameInstruction : Prop :=
  ∀ (w : Word) (i : Instr), decodeWord w = some i →
    encode i &&& significantMask i = w &&& significantMask i ∧
    ∀ w' : Word, w' &&& significantMask i = w &&& significantMask i → decodeWord w' = some i

/-- R74: the decoder gives the instruction of the row that selects the word; the rows are disjoint.  The selectors the
spec marks as general knowledge are those of its rows (log 9). -/
def Obligations.DecoderAgreesWithOpcodeMap : Prop :=
  opcodeRows.length = 34 ∧
  (∀ w : Word, (decodeWord w).map Instr.mnemonic = (opcodeRows.find? (fun r => r.selects w)).map OpcodeRow.mnemonic) ∧
  opcodeRows.Pairwise (fun r q => ∀ w : Word, ¬ (r.selects w = true ∧ q.selects w = true))

/-- R76: the keys of the four groups that select nothing. -/
def Obligations.InvalidWordsAreTheUnlistedKeys : Prop :=
  ∀ w : Word, decodeWord w = none ↔
    ((highNibble w = 0x0 ∧ lowNibble w ∉ [0x0, 0xE]) ∨
     (highNibble w = 0x8 ∧ lowNibble w ∉ [0x0, 0x1, 0x2, 0x3, 0x4, 0x5, 0x6, 0x7, 0xE]) ∨
     (highNibble w = 0xE ∧ lowByte w ∉ [0x9E, 0xA1]) ∨
     (highNibble w = 0xF ∧ lowByte w ∉ [0x07, 0x0A, 0x15, 0x18, 0x1E, 0x29, 0x33, 0x55, 0x65]))

/-- Words the spec writes out, and what they are (R74, R76, R77, R121, R123, R125, R141, R171, R175, R192, and
95_test_vectors.md sections 2.1 and 2.4). -/
def Obligations.SpecWordsDecode : Prop :=
  decodeWord 0x00E0 = some .cls ∧ decodeWord 0x0120 = some .cls ∧ decodeWord 0x0FFE = some .ret ∧
  decodeWord 0x1200 = some (.jp 0x200) ∧ decodeWord 0x220C = some (.call 0x20C) ∧
  decodeWord 0x3312 = some (.seImm 3 0x12) ∧ decodeWord 0x5121 = some (.seReg 1 2) ∧
  decodeWord 0x6A02 = some (.ldImm 0xA 0x02) ∧ decodeWord 0x8126 = some (.shr 1) ∧
  decodeWord 0xA2F0 = some (.ldI 0x2F0) ∧ decodeWord 0xD125 = some (.drw 1 2 5) ∧
  decodeWord 0xF355 = some (.stRegs 3) ∧ decodeWord 0x800F = none ∧ decodeWord 0xF0FF = none

/-! ### Memory accesses -/

/-- R14: CheckAddr under either policy, and the byte an admitted read returns. -/
def Obligations.AddressPolicyRefusesOrMasks : Prop :=
  ∀ (s : State) (a : Nat),
    (s.config.addrPolicy = .fault → 0x1000 ≤ a → checkAddr s.config.addrPolicy a = none) ∧
    (s.config.addrPolicy = .fault → a < 0x1000 →
      checkAddr s.config.addrPolicy a = some a ∧ memRead a s = s.mem.read a) ∧
    (s.config.addrPolicy = .mask12 →
      checkAddr s.config.addrPolicy a = some (a % 0x1000) ∧ memRead a s = s.mem.read (a % 0x1000))

/-- R63: a read returns the byte last written to its address, and a write touches no other address. -/
def Obligations.ReadsReturnTheLastWrite : Prop :=
  ∀ (s : State) (a c e : Nat) (b : Byte), s.mem.wf = true → checkAddr s.config.addrPolicy a = some e →
    (checkAddr s.config.addrPolicy c = some e → memRead c (memWrite a b s) = b) ∧
    (checkAddr s.config.addrPolicy c ≠ some e → memRead c (memWrite a b s) = memRead c s) ∧
    (memWrite a b s).mem.wf = true ∧ ChangesOnly [.memory] s (memWrite a b s)

/-! ### The cycle -/

/-- R102: both bytes are checked, then read, the byte at PC the high one. -/
def Obligations.FetchReadsTheWordAtPc : Prop :=
  ∀ s : State,
    (s.config.addrPolicy = .fault → s.pc.toNat < 0xFFF →
      ∃ w, fetch s = .ok w ∧
        w.toNat = 256 * (s.mem.read s.pc.toNat).toNat + (s.mem.read (s.pc.toNat + 1)).toNat) ∧
    (s.config.addrPolicy = .fault → 0xFFF ≤ s.pc.toNat → fetch s = .error (max s.pc.toNat 0x1000)) ∧
    (s.config.addrPolicy = .mask12 →
      ∃ w, fetch s = .ok w ∧
        w.toNat = 256 * (s.mem.read (s.pc.toNat % 0x1000)).toNat + (s.mem.read ((s.pc.toNat + 1) % 0x1000)).toNat)

/-- R100, R104: a running CORE whose two bytes at PC decode to an instruction executes exactly it, from the state after
the key snapshot, and then runs steps (d) and (e). -/
def Obligations.StepRunsTheDecodedInstruction : Prop :=
  ∀ (s : State) (i : Instr) (hi lo : Nat), s.halted = false →
    checkAddr s.config.addrPolicy s.pc.toNat = some hi →
    checkAddr s.config.addrPolicy (s.pc.toNat + 1) = some lo →
    decodeBytes [s.mem.read hi, s.mem.read lo] = .instr i [] →
    step s = afterExec (exec i (executeState (wordOfBytes (s.mem.read hi) (s.mem.read lo)) s))

/-- R101: `Keys <- key_in` at the start of every cycle, and no instruction looks at the port itself.  Where `inputs`
names no key vector the port's value is the free value (log 1, the model's choice). -/
def Obligations.EveryCycleCopiesTheKeyPort : Prop :=
  (∀ (s t : State) (p : PortInput) (rest : List PortInput), s.halted = false → s.inputs = p :: rest →
    step s = .next t → t.keys = p.keyIn ∧ t.rndIn = p.rndIn ∧ t.inputs = rest) ∧
  (∀ s t : State, s.halted = false → s.inputs = [] → step s = .next t →
    t.keys = Config.freeKeyIn s.draws ∧ t.rndIn = Config.freeRndIn s.draws ∧ t.inputs = []) ∧
  (∀ (i : Instr) (l : List PortInput) (s : State),
    exec i { s with inputs := l } = mapNext (fun t => { t with inputs := l }) (exec i s))

/-- R107, R108: what steps (d) and (e) do to the state the instruction left, in every cycle that reaches them. -/
def Obligations.CompletedCyclesCountTimersAndPresent : Prop :=
  ∀ s t : State, s.halted = false → step s = .next t → t.halted = false →
    ∃ w i u, fetch s = .ok w ∧ decodeWord w = some i ∧ exec i (executeState w s) = .next u ∧
      t.beep = decide (u.st.toNat = 1) ∧ t.dt.toNat = u.dt.toNat - 1 ∧ t.st.toNat = u.st.toNat - 1 ∧
      t.present = u.dirty ∧ t.dirty = false ∧
      ChangesOnly [.delay, .sound, .dirty, .pulses] u t

/-- R242: both timers count down by 1 in a completed cycle, stopping at 0, but for the one the cycle's instruction
writes; waiting in LD Vx,K does not stop them (R113). -/
def Obligations.TimersCountDownEveryCycle : Prop :=
  ∀ s t : State, s.halted = false → step s = .next t → t.halted = false →
    ((∀ x, fetchedInstr s ≠ some (.ldDtVx x)) → t.dt.toNat = s.dt.toNat - 1) ∧
    ((∀ x, fetchedInstr s ≠ some (.ldStVx x)) → t.st.toNat = s.st.toNat - 1) ∧
    (∀ x, fetchedInstr s = some (.ldDtVx x) → t.dt.toNat = (readReg x s).toNat - 1) ∧
    (∀ x, fetchedInstr s = some (.ldStVx x) →
      t.st.toNat = (readReg x s).toNat - 1 ∧ t.beep = decide ((readReg x s).toNat = 1))

/-- R216: a sound timer at m >= 1 gives exactly one beep, in the m-th cycle, unless ST is rewritten first. -/
def Obligations.SoundTimerBeepsExactlyOnce : Prop :=
  ∀ (run : Nat → State) (n : Nat),
    (∀ k < n, (run k).halted = false ∧ step (run k) = .next (run (k + 1)) ∧ (run (k + 1)).halted = false ∧
      ∀ x, fetchedInstr (run k) ≠ some (.ldStVx x)) →
    ∀ k < n, (run (k + 1)).beep = decide ((run 0).st.toNat = k + 1)

/-- R111: a strobe always has its outcome; the model neither faults nor refuses.  That an error is a next state is
deduced (log 5). -/
def Obligations.EveryStepAnswersANextState : Prop := ∀ s : State, ∃ t, step s = .next t

/-! ### Errors -/

/-- R103, R230: an invalid word halts the CORE with its record, before anything is executed. -/
def Obligations.InvalidWordHaltsTheCore : Prop :=
  ∀ (s : State) (w : Word), s.halted = false → fetch s = .ok w → decodeWord w = none →
    ∃ t, step s = .next t ∧ t.halted = true ∧ t.err = some ⟨.invalidOpcode, s.pc, some w, none⟩ ∧
      t.beep = false ∧ t.present = false ∧ ChangesOnly errorCycleParts s t

/-- R102, R110, R231, R233: a fetch that leaves memory halts the CORE; the record has no word.  The frame leaves `w`
open (R36, log 4). -/
def Obligations.FetchOutsideMemoryHaltsTheCore : Prop :=
  ∀ s : State, s.halted = false → s.config.addrPolicy = .fault → 0xFFF ≤ s.pc.toNat →
    ∃ t, step s = .next t ∧ t.halted = true ∧
      t.err = some ⟨.memoryOutOfRange, s.pc, none, some (max s.pc.toNat 0x1000)⟩ ∧
      t.beep = false ∧ t.present = false ∧ ChangesOnly errorCycleParts s t

/-- R233: errors are precise, and `Keys` holds the cycle's snapshot.  `w` may hold the fetched word (log 4, deduced) and
an input is used up (log 1, the model's choice). -/
def Obligations.ErrorsArePrecise : Prop :=
  ∀ s t : State, s.halted = false → step s = .next t → t.halted = true →
    ChangesOnly errorCycleParts s t ∧ t.keys = (snapshot s).keys ∧ t.beep = false ∧ t.present = false ∧
    ∃ e, t.err = some e ∧ e.pc = s.pc

/-- R237: an instruction raises at most the one kind of error named for it, and then it changes nothing but the status;
an instruction named without one never changes the status. -/
def Obligations.InstructionsRaiseOnlyTheirOwnError : Prop :=
  ∀ (i : Instr) (s t : State), exec i s = .next t →
    Unchanged .status s t ∨ ∃ cause arg, executeError i = some cause ∧ Raised cause arg s t

/-- R109: a strobe of a halted CORE changes no state; `beep` and `present` are 0. -/
def Obligations.HaltedCoreIgnoresStrobes : Prop :=
  ∀ s : State, s.halted = true →
    ∃ t, step s = .next t ∧ ChangesOnly [.pulses, .inputs, .draws] s t ∧ t.beep = false ∧ t.present = false

/-- R235: halt is permanent, whatever the number of strobes; a halted strobe uses up no input (log 6, the model's
choice). -/
def Obligations.HaltIsPermanent : Prop :=
  ∀ (k : Nat) (s : State), s.halted = true →
    ∃ t, Sys2Proof.core.run k s = .next t ∧ t.halted = true ∧ ChangesOnly [.pulses] s t

/-- R235, R267: a run that ends in a running CORE was running after each of its cycles. -/
def Obligations.SafeRunsHaveSafePrefixes : Prop :=
  ∀ (j k : Nat) (s : State), j ≤ k → RunsSafely k s → RunsSafely j s

/-! ### Reset, load and the invariant -/

/-- R41: what every piece of the spec's state holds after reset. -/
def Obligations.ResetHoldsTheSpecValues : Prop :=
  (∀ a, State.reset.mem.read a = if a < 80 then standardFont.getD a 0 else 0) ∧
  (∀ r, readReg r State.reset = 0) ∧ State.reset.pc = 0x200 ∧ State.reset.i = 0 ∧ State.reset.sp = 0 ∧
  (∀ j : Fin 16, State.reset.stack[j] = 0) ∧ State.reset.dt = 0 ∧ State.reset.st = 0 ∧
  (∀ c r, pixel State.reset.fb c r = false) ∧ (∀ k, keyDown State.reset.keys k = false) ∧ State.reset.w = 0 ∧
  State.reset.dirty = false ∧ State.reset.halted = false ∧ State.reset.err = none

/-- R262, R263: an image of at most 3584 bytes is copied to 0x200 and nothing else changes; a longer one changes nothing.
`load` is a move of the host on a created CORE alone: not before create, not a second time, not after a rejected load, not
on a running CORE.  That the stage stands in Session is the model's choice (log 15). -/
def Obligations.LoadCopiesTheImageOrRejectsIt : Prop :=
  ∀ (s : State) (bytes : List Byte), s.mem.wf = true →
    (3584 < bytes.length → (Session.created s).move (.load bytes) = some (.romTooLarge, .rejected s)) ∧
    (bytes.length ≤ 3584 → ∃ t, (Session.created s).move (.load bytes) = some (.loaded, .running t) ∧ t.mem.wf = true ∧
      (∀ j, (h : j < bytes.length) → t.mem.read (0x200 + j) = bytes[j]) ∧
      (∀ a, (a < 0x200 ∨ 0x200 + bytes.length ≤ a) → t.mem.read a = s.mem.read a) ∧
      ChangesOnly [.memory] s t) ∧
    (∀ σ : Session, (∀ u, σ ≠ .created u) → σ.move (.load bytes) = none)

/-- The invariant holds after reset, whatever the parameters and the font (R10, R41). -/
def Obligations.ResetMeetsTheInvariant : Prop :=
  Inv State.reset ∧ ∀ (c : Config) (font : Vector Byte 80), Inv (State.resetWith c font)

/-- From every consistent state, reached or not, every step leaves a consistent state. -/
def Obligations.EveryStepKeepsTheInvariant : Prop :=
  ∀ s t : State, Inv s → step s = .next t → Inv t

/-! ### Whole-machine rules -/

/-- R22: no instruction writes a register outside the "writes" column. -/
def Obligations.OnlyNamedRegistersAreWritten : Prop :=
  ∀ (i : Instr) (s t : State), exec i s = .next t → KeepsRegs (writtenRegs i) s t

/-- R27, R28, R32, R33, R34, R37, R52: SP and the stack, I, DT, ST, memory, FB and Dirty have only the writers named;
`Keys`, the word and the ports have none, and the parameters never change.  LD Vx,K alone may use up a free value
(log 12, the model's bookkeeping). -/
def Obligations.OnlyNamedInstructionsWrite : Prop :=
  ∀ (i : Instr) (s t : State), exec i s = .next t →
    (writesStack i = false → Unchanged .stack s t) ∧
    (writesIndex i = false → Unchanged .index s t) ∧
    ((∀ x, i ≠ .ldDtVx x) → Unchanged .delay s t) ∧
    ((∀ x, i ≠ .ldStVx x) → Unchanged .sound s t) ∧
    (writesMemory i = false → Unchanged .memory s t) ∧
    (writesDisplay i = false → Unchanged .framebuffer s t ∧ Unchanged .dirty s t) ∧
    ((∀ x, i ≠ .ldVxK x) → Unchanged .draws s t) ∧
    Unchanged .keys s t ∧ Unchanged .word s t ∧ Unchanged .pulses s t ∧ Unchanged .inputs s t ∧ Unchanged .config s t

/-- R27: CALL never writes the entry below the first, and the parameters of R10 are fixed: both survive every step.  That
the parameters stand in State is the model's choice (log 2). -/
def Obligations.StepsKeepStackEntryZeroAndParameters : Prop :=
  ∀ s t : State, step s = .next t → t.stack[0] = s.stack[0] ∧ t.config = s.config

/-- R5, R111: only RND reads the random byte. -/
def Obligations.OnlyRndReadsTheRandomByte : Prop :=
  ∀ (i : Instr) (b : Byte) (s : State), (∀ x kk, i ≠ .rnd x kk) →
    exec i { s with rndIn := b } = mapNext (fun t => { t with rndIn := b }) (exec i s)

/-- R33: only SKP, SKNP and LD Vx,K read the key snapshot. -/
def Obligations.OnlyKeyInstructionsReadKeys : Prop :=
  ∀ (i : Instr) (ks : BitVec 16) (s : State), readsKeys i = false →
    exec i { s with keys := ks } = mapNext (fun t => { t with keys := ks }) (exec i s)

/-! ### Control flow -/

/-- R125-R128: the four register skips. -/
def Obligations.RegisterSkips : Prop :=
  Selects 0xF000 0x3000 (fun w => .seImm (fieldX w) (fieldKK w)) ∧
  Selects 0xF000 0x4000 (fun w => .sneImm (fieldX w) (fieldKK w)) ∧
  Selects 0xF000 0x5000 (fun w => .seReg (fieldX w) (fieldY w)) ∧
  Selects 0xF000 0x9000 (fun w => .sneReg (fieldX w) (fieldY w)) ∧
  ∀ (s : State) (x y : Reg) (kk : Byte),
    (∃ t, exec (.seImm x kk) s = .next t ∧ SkipsWhen (readReg x s = kk) s t) ∧
    (∃ t, exec (.sneImm x kk) s = .next t ∧ SkipsWhen (readReg x s ≠ kk) s t) ∧
    (∃ t, exec (.seReg x y) s = .next t ∧ SkipsWhen (readReg x s = readReg y s) s t) ∧
    (∃ t, exec (.sneReg x y) s = .next t ∧ SkipsWhen (readReg x s ≠ readReg y s) s t)

/-- R123, R124: PC is the target, with no advance. -/
def Obligations.JumpsSetPc : Prop :=
  Selects 0xF000 0x1000 (fun w => .jp (fieldNNN w)) ∧
  Selects 0xF000 0xB000 (fun w => .jpV0 (fieldNNN w)) ∧
  ∀ (s : State) (nnn : Addr12),
    (∃ t, exec (.jp nnn) s = .next t ∧ t.pc.toNat = nnn.toNat ∧ ChangesOnly [.pc] s t) ∧
    (∃ t, exec (.jpV0 nnn) s = .next t ∧ t.pc.toNat = nnn.toNat + (readReg 0 s).toNat ∧ ChangesOnly [.pc] s t)

/-- R121: CALL pushes its own address plus P_CALL_LINK_OFFSET; with 15 addresses held it raises StackOverflow. -/
def Obligations.CallPushesAndJumps : Prop :=
  Selects 0xF000 0x2000 (fun w => .call (fieldNNN w)) ∧
  ∀ (s : State) (nnn : Addr12),
    (s.sp ≠ 15 → ∃ t, exec (.call nnn) s = .next t ∧ t.pc.toNat = nnn.toNat ∧ t.sp.val = s.sp.val + 1 ∧
      (∀ j : Fin 16, j ≠ t.sp → t.stack[j] = s.stack[j]) ∧
      (s.config.linkOffset = .zero → t.stack[t.sp] = s.pc) ∧
      (s.config.linkOffset = .two → (t.stack[t.sp]).toNat = (s.pc.toNat + 2) % 65536) ∧
      ChangesOnly [.pc, .stack] s t) ∧
    (s.sp = 15 → ∃ t, exec (.call nnn) s = .next t ∧ Raised .stackOverflow none s t)

/-- R122: RET pops and adds 2; with no address held it raises StackUnderflow. -/
def Obligations.RetPopsAndAddsTwo : Prop :=
  Selects 0xF00F 0x000E (fun _ => .ret) ∧
  ∀ s : State,
    (s.sp ≠ 0 → ∃ t, exec .ret s = .next t ∧ t.pc.toNat = ((s.stack[s.sp]).toNat + 2) % 65536 ∧
      t.sp.val + 1 = s.sp.val ∧ t.stack = s.stack ∧ ChangesOnly [.pc, .stack] s t) ∧
    (s.sp = 0 → ∃ t, exec .ret s = .next t ∧ Raised .stackUnderflow none s t)

/-- R122 corner case, 90_conflicts.md C2: the RET that matches a CALL resumes at CALL + 2, or at CALL + 4 under
P_CALL_LINK_OFFSET = 2, with SP as before the CALL. -/
def Obligations.RetReturnsPastItsCall : Prop :=
  ∀ (s t u r : State) (nnn : Addr12), s.sp ≠ 15 → exec (.call nnn) s = .next t → u.sp = t.sp → u.stack = t.stack →
    exec .ret u = .next r →
    r.sp = s.sp ∧
    (s.config.linkOffset = .zero → PcPlus 2 s r) ∧ (s.config.linkOffset = .two → PcPlus 4 s r)

/-! ### Register loads, arithmetic, logic, random -/

/-- R141, R143, R152, R213: the plain loads of a register. -/
def Obligations.RegisterLoads : Prop :=
  Selects 0xF000 0x6000 (fun w => .ldImm (fieldX w) (fieldKK w)) ∧
  Selects 0xF00F 0x8000 (fun w => .ldReg (fieldX w) (fieldY w)) ∧
  Selects 0xF0FF 0xF007 (fun w => .ldVxDt (fieldX w)) ∧
  Selects 0xF000 0xC000 (fun w => .rnd (fieldX w) (fieldKK w)) ∧
  ∀ (s : State) (x y : Reg) (kk : Byte),
    (∃ t, exec (.ldImm x kk) s = .next t ∧ LoadsReg x kk.toNat s t) ∧
    (∃ t, exec (.ldReg x y) s = .next t ∧ LoadsReg x (readReg y s).toNat s t) ∧
    (∃ t, exec (.ldVxDt x) s = .next t ∧ LoadsReg x s.dt.toNat s t) ∧
    (∃ t, exec (.rnd x kk) s = .next t ∧ LoadsReg x (Nat.land s.rndIn.toNat kk.toNat) s t)

/-- R142, R144-R146: arithmetic and logic that write no flag, VF included unless it is the destination. -/
def Obligations.FlaglessArithmetic : Prop :=
  Selects 0xF000 0x7000 (fun w => .addImm (fieldX w) (fieldKK w)) ∧
  Selects 0xF00F 0x8001 (fun w => .orReg (fieldX w) (fieldY w)) ∧
  Selects 0xF00F 0x8002 (fun w => .andReg (fieldX w) (fieldY w)) ∧
  Selects 0xF00F 0x8003 (fun w => .xorReg (fieldX w) (fieldY w)) ∧
  ∀ (s : State) (x y : Reg) (kk : Byte),
    (∃ t, exec (.addImm x kk) s = .next t ∧ LoadsReg x (((readReg x s).toNat + kk.toNat) % 256) s t) ∧
    (∃ t, exec (.orReg x y) s = .next t ∧ LoadsReg x (Nat.lor (readReg x s).toNat (readReg y s).toNat) s t) ∧
    (∃ t, exec (.andReg x y) s = .next t ∧ LoadsReg x (Nat.land (readReg x s).toNat (readReg y s).toNat) s t) ∧
    (∃ t, exec (.xorReg x y) s = .next t ∧ LoadsReg x (Nat.xor (readReg x s).toNat (readReg y s).toNat) s t)

/-- R147, R106: the sum mod 256 and its carry. -/
def Obligations.AddSetsCarry : Prop :=
  Selects 0xF00F 0x8004 (fun w => .addReg (fieldX w) (fieldY w)) ∧
  ∀ (s : State) (x y : Reg), ∃ t, exec (.addReg x y) s = .next t ∧
    WritesResultAndFlag x (((readReg x s).toNat + (readReg y s).toNat) % 256)
      (if (readReg x s).toNat + (readReg y s).toNat > 255 then 1 else 0) s t

/-- R148, R150, R106: the difference mod 256 and NOT-borrow. -/
def Obligations.SubtractSetsNotBorrow : Prop :=
  Selects 0xF00F 0x8005 (fun w => .subReg (fieldX w) (fieldY w)) ∧
  Selects 0xF00F 0x8007 (fun w => .subnReg (fieldX w) (fieldY w)) ∧
  ∀ (s : State) (x y : Reg),
    (∃ t, exec (.subReg x y) s = .next t ∧
      WritesResultAndFlag x (((readReg x s).toNat + 256 - (readReg y s).toNat) % 256)
        (if (readReg x s).toNat ≥ (readReg y s).toNat then 1 else 0) s t) ∧
    (∃ t, exec (.subnReg x y) s = .next t ∧
      WritesResultAndFlag x (((readReg y s).toNat + 256 - (readReg x s).toNat) % 256)
        (if (readReg y s).toNat ≥ (readReg x s).toNat then 1 else 0) s t)

/-- R149, R151, R106: the shifts by one and the flag of the pre-shift value, SHL's by P_SHL_FLAG. -/
def Obligations.ShiftsSetFlagFromOldValue : Prop :=
  Selects 0xF00F 0x8006 (fun w => .shr (fieldX w)) ∧
  Selects 0xF00F 0x800E (fun w => .shl (fieldX w)) ∧
  ∀ (s : State) (x : Reg),
    (∃ t, exec (.shr x) s = .next t ∧
      WritesResultAndFlag x ((readReg x s).toNat / 2) ((readReg x s).toNat % 2) s t) ∧
    (∃ t, exec (.shl x) s = .next t ∧
      WritesResultAndFlag x ((readReg x s).toNat * 2 % 256)
        (match s.config.shlFlag with
         | .lowNibbleEq1 => if (readReg x s).toNat % 16 = 1 then 1 else 0
         | .msb          => (readReg x s).toNat / 128) s t)

/-! ### Index register and memory -/

/-- R171-R173: the three writers of I. -/
def Obligations.IndexRegisterWrites : Prop :=
  Selects 0xF000 0xA000 (fun w => .ldI (fieldNNN w)) ∧
  Selects 0xF0FF 0xF01E (fun w => .addIVx (fieldX w)) ∧
  Selects 0xF0FF 0xF029 (fun w => .ldFVx (fieldX w)) ∧
  ∀ (s : State) (x : Reg) (nnn : Addr12),
    (∃ t, exec (.ldI nnn) s = .next t ∧ t.i.toNat = nnn.toNat ∧ PcPlus 2 s t ∧ ChangesOnly [.index, .pc] s t) ∧
    (∃ t, exec (.addIVx x) s = .next t ∧ t.i.toNat = (s.i.toNat + (readReg x s).toNat) % 65536 ∧
      PcPlus 2 s t ∧ ChangesOnly [.index, .pc] s t) ∧
    (∃ t, exec (.ldFVx x) s = .next t ∧ t.i.toNat = (readReg x s).toNat * 5 ∧ PcPlus 2 s t ∧
      ChangesOnly [.index, .pc] s t)

/-- R174: hundreds, tens and ones at I, I+1, I+2, no flag, or MemoryOutOfRange with nothing written. -/
def Obligations.BcdStoresThreeDigits : Prop :=
  Selects 0xF0FF 0xF033 (fun w => .ldBVx (fieldX w)) ∧
  ∀ (s : State) (x : Reg), s.mem.wf = true →
    (¬ BlockOutside 3 s → ∃ t d2 d1 d0, exec (.ldBVx x) s = .next t ∧
      (readReg x s).toNat = 100 * d2.toNat + 10 * d1.toNat + d0.toNat ∧ d1.toNat < 10 ∧ d0.toNat < 10 ∧
      StoresBlock [d2, d1, d0] s t ∧ PcPlus 2 s t ∧ ChangesOnly [.memory, .pc] s t) ∧
    (BlockOutside 3 s → ∃ t, exec (.ldBVx x) s = .next t ∧
      Raised .memoryOutOfRange (some (max s.i.toNat 0x1000)) s t)

/-- R175: V0..Vx at I, I+1, ..., I+x, I unchanged, or MemoryOutOfRange with nothing written. -/
def Obligations.BlockStoreWritesRegisters : Prop :=
  Selects 0xF0FF 0xF055 (fun w => .stRegs (fieldX w)) ∧
  ∀ (s : State) (x : Reg), s.mem.wf = true →
    (¬ BlockOutside (x.val + 1) s → ∃ t, exec (.stRegs x) s = .next t ∧
      StoresBlock ((List.finRange 16).take (x.val + 1) |>.map (fun r => readReg r s)) s t ∧
      PcPlus 2 s t ∧ ChangesOnly [.memory, .pc] s t) ∧
    (BlockOutside (x.val + 1) s → ∃ t, exec (.stRegs x) s = .next t ∧
      Raised .memoryOutOfRange (some (max s.i.toNat 0x1000)) s t)

/-- R176: V0..Vx from I, I+1, ..., I+x, I unchanged, or MemoryOutOfRange with no register written. -/
def Obligations.BlockLoadReadsRegisters : Prop :=
  Selects 0xF0FF 0xF065 (fun w => .ldRegs (fieldX w)) ∧
  ∀ (s : State) (x : Reg),
    (¬ BlockOutside (x.val + 1) s → ∃ t, exec (.ldRegs x) s = .next t ∧
      (∀ (j : Reg) (e : Nat), j ≤ x → checkAddr s.config.addrPolicy (s.i.toNat + j.val) = some e →
        readReg j t = s.mem.read e) ∧
      (∀ j : Reg, x < j → readReg j t = readReg j s) ∧ PcPlus 2 s t ∧ ChangesOnly [.regs, .pc] s t) ∧
    (BlockOutside (x.val + 1) s → ∃ t, exec (.ldRegs x) s = .next t ∧
      Raised .memoryOutOfRange (some (max s.i.toNat 0x1000)) s t)

/-- 95_test_vectors.md S5, R175, R176: LD [I],Vx, any change of V0..Vx, then LD Vx,[I] restores V0..Vx. -/
def Obligations.BlockStoreThenLoadRestoresRegisters : Prop :=
  ∀ (s t u r : State) (x : Reg), s.mem.wf = true → ¬ BlockOutside (x.val + 1) s →
    exec (.stRegs x) s = .next t → u.mem = t.mem → u.i = s.i → u.config = s.config →
    exec (.ldRegs x) u = .next r → ∀ j : Reg, j ≤ x → readReg j r = readReg j s

/-- R64: bytes stored are the bytes fetched: after LD [I],Vx with x >= 1, a fetch at I reads the word V0, V1. -/
def Obligations.StoresAreSeenByFetch : Prop :=
  ∀ (s t u : State) (x : Reg), s.mem.wf = true → ¬ BlockOutside (x.val + 1) s → 1 ≤ x.val →
    exec (.stRegs x) s = .next t → u.mem = t.mem → u.config = t.config → u.pc = s.i →
    fetch u = .ok (wordOfBytes (readReg 0 s) (readReg 1 s))

/-! ### Display -/

/-- R191: every pixel 0, Dirty set, nothing else. -/
def Obligations.ClsClearsEveryPixel : Prop :=
  Selects 0xF00F 0x0000 (fun _ => .cls) ∧
  ∀ s : State, ∃ t, exec .cls s = .next t ∧ (∀ c r, pixel t.fb c r = false) ∧ t.dirty = true ∧ PcPlus 2 s t ∧
    ChangesOnly [.framebuffer, .dirty, .pc] s t

/-- R192: each pixel of the grid under a 1 bit of the sprite is flipped, VF says whether one of them was on, Dirty is
set; or MemoryOutOfRange with nothing changed. -/
def Obligations.DrwXorsTheSprite : Prop :=
  Selects 0xF000 0xD000 (fun w => .drw (fieldX w) (fieldY w) (fieldN w)) ∧
  ∀ (s : State) (x y : Reg) (n : RowCount),
    (¬ BlockOutside n.val s → ∃ t, exec (.drw x y n) s = .next t ∧
      (∀ c < 64, ∀ r < 32, UnderSprite x y n s c r → pixel t.fb c r = !pixel s.fb c r) ∧
      (∀ c < 64, ∀ r < 32, ¬ UnderSprite x y n s c r → pixel t.fb c r = pixel s.fb c r) ∧
      ((∃ c < 64, ∃ r < 32, UnderSprite x y n s c r ∧ pixel s.fb c r = true) → readReg vf t = 1) ∧
      ((¬ ∃ c < 64, ∃ r < 32, UnderSprite x y n s c r ∧ pixel s.fb c r = true) → readReg vf t = 0) ∧
      KeepsRegs [vf] s t ∧ t.dirty = true ∧ PcPlus 2 s t ∧ ChangesOnly [.regs, .framebuffer, .dirty, .pc] s t) ∧
    (BlockOutside n.val s → ∃ t, exec (.drw x y n) s = .next t ∧
      Raised .memoryOutOfRange (some (max s.i.toNat 0x1000)) s t)

/-- R194: a sprite whose start lies outside the grid, or that has no rows, draws nothing and hits nothing. -/
def Obligations.DrwOutsideTheGridDrawsNothing : Prop :=
  ∀ (s : State) (x y : Reg) (n : RowCount), ¬ BlockOutside n.val s →
    (64 ≤ (readReg x s).toNat ∨ 32 ≤ (readReg y s).toNat ∨ n.val = 0) →
    ∃ t, exec (.drw x y n) s = .next t ∧ t.fb = s.fb ∧ readReg vf t = 0 ∧ t.dirty = true

/-- R195: the same DRW twice restores FB; the second sets VF = 1 exactly when a pixel under the sprite was off before
the first. -/
def Obligations.DrwTwiceRestoresTheFramebuffer : Prop :=
  ∀ (s t u r : State) (x y : Reg) (n : RowCount), ¬ BlockOutside n.val s → exec (.drw x y n) s = .next t →
    u.fb = t.fb → u.mem = s.mem → u.i = s.i → u.config = s.config →
    readReg x u = readReg x s → readReg y u = readReg y s → exec (.drw x y n) u = .next r →
    r.fb = s.fb ∧
    (readReg vf r = 1 ↔ ∃ c < 64, ∃ q < 32, UnderSprite x y n s c q ∧ pixel s.fb c q = false)

/-! ### Keys and timers -/

/-- R211, R212, R210: the key skips on a key index; an index of 16 or more raises KeyIndexOutOfRange. -/
def Obligations.KeySkips : Prop :=
  Selects 0xF0FF 0xE09E (fun w => .skp (fieldX w)) ∧
  Selects 0xF0FF 0xE0A1 (fun w => .sknp (fieldX w)) ∧
  ∀ (s : State) (x : Reg),
    ((readReg x s).toNat < 16 →
      (∃ t, exec (.skp x) s = .next t ∧ SkipsWhen (keyDown s.keys (readReg x s).toNat = true) s t) ∧
      (∃ t, exec (.sknp x) s = .next t ∧ SkipsWhen (keyDown s.keys (readReg x s).toNat = false) s t)) ∧
    (16 ≤ (readReg x s).toNat →
      (∃ t, exec (.skp x) s = .next t ∧ Raised .keyIndexOutOfRange (some (readReg x s).toNat) s t) ∧
      (∃ t, exec (.sknp x) s = .next t ∧ Raised .keyIndexOutOfRange (some (readReg x s).toNat) s t))

/-- R214: with no key pressed LD Vx,K changes nothing at all; else V[x] is a pressed key, the lowest one by default, and
PC advances by P_LDK_ADVANCE.  Which key AnyPressed takes is a free value (log 12, the model's choice of form). -/
def Obligations.KeyWaitTakesAPressedKey : Prop :=
  Selects 0xF0FF 0xF00A (fun w => .ldVxK (fieldX w)) ∧
  ∀ (s : State) (x : Reg),
    ((∀ k < 16, keyDown s.keys k = false) → exec (.ldVxK x) s = .next s) ∧
    (∀ p < 16, keyDown s.keys p = true → ∃ t, exec (.ldVxK x) s = .next t ∧
      (readReg x t).toNat < 16 ∧ keyDown s.keys (readReg x t).toNat = true ∧
      (s.config.ldkSelect = .lowest → (readReg x t).toNat ≤ p) ∧
      (s.config.ldkAdvance = .two → PcPlus 2 s t) ∧ (s.config.ldkAdvance = .four → PcPlus 4 s t) ∧
      KeepsRegs [x] s t ∧ ChangesOnly [.regs, .pc, .draws] s t)

/-- R113: a cycle that waits in LD Vx,K leaves PC and the registers, and the timers count on. -/
def Obligations.WaitingKeepsPcAndCountsTimers : Prop :=
  ∀ (s : State) (x : Reg), s.halted = false → fetchedInstr s = some (.ldVxK x) → (snapshot s).keys = 0 →
    ∃ t, step s = .next t ∧ t.pc = s.pc ∧ KeepsRegs [] s t ∧ t.dt.toNat = s.dt.toNat - 1 ∧
      t.st.toNat = s.st.toNat - 1 ∧ t.beep = decide (s.st.toNat = 1) ∧ t.halted = false

/-- R215, R216: the timer registers take V[x] in the execute step. -/
def Obligations.TimerWrites : Prop :=
  Selects 0xF0FF 0xF015 (fun w => .ldDtVx (fieldX w)) ∧
  Selects 0xF0FF 0xF018 (fun w => .ldStVx (fieldX w)) ∧
  ∀ (s : State) (x : Reg),
    (∃ t, exec (.ldDtVx x) s = .next t ∧ t.dt = readReg x s ∧ PcPlus 2 s t ∧ ChangesOnly [.delay, .pc] s t) ∧
    (∃ t, exec (.ldStVx x) s = .next t ∧ t.st = readReg x s ∧ PcPlus 2 s t ∧ ChangesOnly [.sound, .pc] s t)

/-! ### The host's moves -/

/-- R268: on a running CORE the host can create anew, strobe, and observe, and nothing else; a strobe is one step on the
inputs presented with it and always completes, and observing changes nothing.  That the stage stands in Session is the
model's choice (log 15). -/
def Obligations.HostChangesARunningCoreOnlyByStrobes : Prop :=
  ∀ s : State,
    (∀ (m : HostMove) (r : HostReply) (n : Session), (Session.running s).move m = some (r, n) →
      (∃ c font, m = .create c font ∧ r = .created ∧ n = .created (State.resetWith c font)) ∨
      (∃ p t, m = .step p ∧ step { s with inputs := [p] } = .next t ∧ r = .stepped t.hostView ∧ n = .running t) ∨
      (m = .observe ∧ r = .observed s.observation ∧ n = .running s)) ∧
    (∀ p : PortInput, ∃ t, step { s with inputs := [p] } = .next t ∧
      (Session.running s).move (.step p) = some (.stepped t.hostView, .running t) ∧
      (s.halted = false → t.keys = p.keyIn ∧ t.rndIn = p.rndIn)) ∧
    (Session.running s).move .observe = some (.observed s.observation, .running s)

/-- R263, R268: before a successful load the host cannot strobe, before create it can do nothing but create, and it can
create at any time. -/
def Obligations.HostFollowsTheBootOrder : Prop :=
  (∀ (σ : Session) (c : Config) (font : Vector Byte 80),
    σ.move (.create c font) = some (.created, .created (State.resetWith c font))) ∧
  (∀ (σ : Session) (p : PortInput), (∀ s, σ ≠ .running s) → σ.move (.step p) = none) ∧
  (∀ (m : HostMove) (r : HostReply) (n : Session), Session.absent.move m = some (r, n) → ∃ c font, m = .create c font)

/-- Whatever the host does, the CORE it holds stays consistent: every move of every session keeps the invariant. -/
def Obligations.HostMovesKeepTheInvariant : Prop :=
  ∀ (σ n : Session) (m : HostMove) (r : HostReply), (∀ s, σ.state = some s → Inv s) → σ.move m = some (r, n) →
    ∀ t, n.state = some t → Inv t
end

