-- ==== Sys2Proof/Laws/Memory.lean ====
section
/-!
SUPPORT. The memory array: a read after a write, the canonical form, and that canonical memories with equal reads are
equal.
-/

namespace Sys2Proof.Machine

namespace Memory

theorem wfFrom_nil (lo : Nat) : wfFrom lo [] = true := rfl

theorem wfFrom_cons {lo k : Nat} {b : Byte} {m : Memory} :
    wfFrom lo ((k, b) :: m) = true ↔ lo ≤ k ∧ k < memSize ∧ b ≠ resetByte k ∧ wfFrom (k + 1) m = true := by
  simp [wfFrom, and_assoc]

theorem wfFrom_mono {lo lo' : Nat} {m : Memory} (h : lo' ≤ lo) (hm : wfFrom lo m = true) : wfFrom lo' m = true := by
  cases m with
  | nil => rfl
  | cons kb m =>
    obtain ⟨k, b⟩ := kb
    rw [wfFrom_cons] at hm ⊢
    exact ⟨by omega, hm.2⟩

/-- An address below every cell reads as its unlisted value. -/
theorem read_below {m : Memory} {lo a : Nat} (hm : wfFrom lo m = true) (h : a < lo) : read m a = resetByte a := by
  induction m generalizing lo with
  | nil => rfl
  | cons kb m ih =>
    obtain ⟨k, b⟩ := kb
    rw [wfFrom_cons] at hm
    have hne : a ≠ k := by omega
    simpa [read, hne] using ih hm.2.2.2 (by omega)

theorem read_cell_append {m : Memory} {a c : Nat} {b : Byte} (hb : b = resetByte a → read m a = resetByte a) :
    read (cell a b ++ m) c = if c = a then b else read m c := by
  unfold cell
  split
  · rename_i h
    by_cases hc : c = a
    · subst hc; simp [hb h, ← h]
    · simp [hc]
  · simp [read]

theorem wfFrom_cell_append {m : Memory} {lo a : Nat} {b : Byte} (hlo : lo ≤ a) (ha : a < memSize)
    (hm : wfFrom (a + 1) m = true) : wfFrom lo (cell a b ++ m) = true := by
  unfold cell
  split
  · exact wfFrom_mono (by omega) hm
  · simpa [wfFrom_cons] using ⟨hlo, ha, ‹_›, hm⟩

/-- Reading after one write: the byte written there, every other address as before. -/
theorem read_write_from {m : Memory} {lo a c : Nat} {b : Byte} (hm : wfFrom lo m = true) :
    read (write m a b) c = if c = a then b else read m c := by
  induction m generalizing lo with
  | nil => simpa [write] using read_cell_append (m := []) (fun _ => rfl)
  | cons kb m ih =>
    obtain ⟨k, d⟩ := kb
    have hk := hm
    rw [wfFrom_cons] at hk
    unfold write
    split
    · exact read_cell_append fun _ => read_below (lo := k) (by rw [wfFrom_cons]; exact ⟨Nat.le_refl k, hk.2⟩) ‹_›
    · split
      · subst a
        rw [read_cell_append fun _ => read_below hk.2.2.2 (by omega)]
        by_cases hc : c = k <;> simp [hc, read]
      · by_cases hc : c = k
        · subst hc
          have : c ≠ a := by omega
          simp [read, this]
        · simp [read, hc, ih hk.2.2.2]

theorem read_write {m : Memory} (hm : m.wf = true) (a c : Nat) (b : Byte) :
    read (write m a b) c = if c = a then b else read m c := read_write_from hm

theorem wfFrom_write {m : Memory} {lo a : Nat} {b : Byte} (hlo : lo ≤ a) (ha : a < memSize)
    (hm : wfFrom lo m = true) : wfFrom lo (write m a b) = true := by
  induction m generalizing lo with
  | nil => simpa [write] using wfFrom_cell_append (m := []) hlo ha rfl
  | cons kb m ih =>
    obtain ⟨k, d⟩ := kb
    have hk := hm
    rw [wfFrom_cons] at hk
    unfold write
    split
    · exact wfFrom_cell_append hlo ha (by rw [wfFrom_cons]; exact ⟨by omega, hk.2⟩)
    · split
      · subst a; exact wfFrom_cell_append hlo ha hk.2.2.2
      · rw [wfFrom_cons]; exact ⟨hk.1, hk.2.1, hk.2.2.1, ih (by omega) hk.2.2.2⟩

/-- A write at an address of the array keeps the canonical form. -/
theorem wf_write {m : Memory} {a : Nat} {b : Byte} (ha : a < memSize) (hm : m.wf = true) : (write m a b).wf = true :=
  wfFrom_write (Nat.zero_le a) ha hm

/-- Writing bytes inside the array keeps the canonical form. -/
theorem wf_writeList {m : Memory} {a : Nat} {bs : List Byte} (h : a + bs.length ≤ memSize) (hm : m.wf = true) :
    (writeList m a bs).wf = true := by
  induction bs generalizing m a with
  | nil => exact hm
  | cons b bs ih =>
    rw [List.length_cons] at h
    exact ih (by omega) (wf_write (by omega) hm)

/-- Reading after writing a list of bytes. -/
theorem read_writeList {m : Memory} {a : Nat} {bs : List Byte} (h : a + bs.length ≤ memSize) (hm : m.wf = true)
    (c : Nat) : read (writeList m a bs) c = if h : a ≤ c ∧ c - a < bs.length then bs[c - a]'h.2 else read m c := by
  induction bs generalizing m a with
  | nil => simp [writeList]
  | cons b bs ih =>
    rw [List.length_cons] at h
    rw [writeList, ih (by omega) (wf_write (by omega) hm), read_write hm]
    by_cases h1 : a + 1 ≤ c ∧ c - (a + 1) < bs.length
    · have h2 : a ≤ c ∧ c - a < (b :: bs).length := by simp only [List.length_cons]; omega
      have h3 : c - a = c - (a + 1) + 1 := by omega
      simp [h1, h2, h3]
    · by_cases hc : c = a
      · subst hc; simp
      · have h2 : ¬ (a ≤ c ∧ c - a < (b :: bs).length) := by simp only [List.length_cons]; omega
        simp only [dif_neg h1, dif_neg h2, if_neg hc]

/-- Canonical memories that read alike are the same list. -/
theorem ext_from {m m' : Memory} {lo : Nat} (hm : wfFrom lo m = true) (hm' : wfFrom lo m' = true)
    (h : ∀ a, read m a = read m' a) : m = m' := by
  induction m generalizing lo m' with
  | nil =>
    cases m' with
    | nil => rfl
    | cons kb m' =>
      obtain ⟨k, b⟩ := kb
      rw [wfFrom_cons] at hm'
      exact absurd (by simpa [read] using (h k).symm) hm'.2.2.1
  | cons kb m ih =>
    obtain ⟨k, b⟩ := kb
    rw [wfFrom_cons] at hm
    cases m' with
    | nil => exact absurd (by simpa [read] using h k) hm.2.2.1
    | cons kb' m' =>
      obtain ⟨k', b'⟩ := kb'
      rw [wfFrom_cons] at hm'
      have hkk : k = k' := by
        rcases Nat.lt_trichotomy k k' with hlt | heq | hgt
        · refine absurd ?_ hm.2.2.1
          have := h k
          rw [read_below (m := (k', b') :: m') (lo := k') (by rw [wfFrom_cons]; exact ⟨Nat.le_refl _, hm'.2⟩) hlt] at this
          simpa [read] using this
        · exact heq
        · refine absurd ?_ hm'.2.2.1
          have := h k'
          rw [read_below (m := (k, b) :: m) (lo := k) (by rw [wfFrom_cons]; exact ⟨Nat.le_refl _, hm.2⟩) hgt] at this
          simpa [read] using this.symm
      subst hkk
      have hb : b = b' := by simpa [read] using h k
      subst hb
      rw [ih hm.2.2.2 hm'.2.2.2 fun a => ?_]
      by_cases ha : a = k
      · subst ha
        rw [read_below hm.2.2.2 (by omega), read_below hm'.2.2.2 (by omega)]
      · simpa [read, ha] using h a

end Memory

end Sys2Proof.Machine
end

