-- ==== Sys2Proof/Laws/State.lean ====
section
/-!
SUPPORT. What each update of the state does to each field: one lemma per field per update.
-/

namespace Sys2Proof.Machine

variable (s : State)

/-! ### writeReg -/

@[simp] theorem writeReg_mem (x : Reg) (b : Byte) : (writeReg x b s).mem = s.mem := rfl
@[simp] theorem writeReg_v (x : Reg) (b : Byte) : (writeReg x b s).v = s.v.set x.val b x.isLt := rfl
@[simp] theorem writeReg_pc (x : Reg) (b : Byte) : (writeReg x b s).pc = s.pc := rfl
@[simp] theorem writeReg_i (x : Reg) (b : Byte) : (writeReg x b s).i = s.i := rfl
@[simp] theorem writeReg_sp (x : Reg) (b : Byte) : (writeReg x b s).sp = s.sp := rfl
@[simp] theorem writeReg_stack (x : Reg) (b : Byte) : (writeReg x b s).stack = s.stack := rfl
@[simp] theorem writeReg_dt (x : Reg) (b : Byte) : (writeReg x b s).dt = s.dt := rfl
@[simp] theorem writeReg_st (x : Reg) (b : Byte) : (writeReg x b s).st = s.st := rfl
@[simp] theorem writeReg_fb (x : Reg) (b : Byte) : (writeReg x b s).fb = s.fb := rfl
@[simp] theorem writeReg_keys (x : Reg) (b : Byte) : (writeReg x b s).keys = s.keys := rfl
@[simp] theorem writeReg_w (x : Reg) (b : Byte) : (writeReg x b s).w = s.w := rfl
@[simp] theorem writeReg_dirty (x : Reg) (b : Byte) : (writeReg x b s).dirty = s.dirty := rfl
@[simp] theorem writeReg_halted (x : Reg) (b : Byte) : (writeReg x b s).halted = s.halted := rfl
@[simp] theorem writeReg_err (x : Reg) (b : Byte) : (writeReg x b s).err = s.err := rfl
@[simp] theorem writeReg_beep (x : Reg) (b : Byte) : (writeReg x b s).beep = s.beep := rfl
@[simp] theorem writeReg_present (x : Reg) (b : Byte) : (writeReg x b s).present = s.present := rfl
@[simp] theorem writeReg_rndIn (x : Reg) (b : Byte) : (writeReg x b s).rndIn = s.rndIn := rfl
@[simp] theorem writeReg_inputs (x : Reg) (b : Byte) : (writeReg x b s).inputs = s.inputs := rfl
@[simp] theorem writeReg_config (x : Reg) (b : Byte) : (writeReg x b s).config = s.config := rfl
@[simp] theorem writeReg_draws (x : Reg) (b : Byte) : (writeReg x b s).draws = s.draws := rfl

/-! ### jumpTo -/

@[simp] theorem jumpTo_mem (p : Word) : (jumpTo p s).mem = s.mem := rfl
@[simp] theorem jumpTo_v (p : Word) : (jumpTo p s).v = s.v := rfl
@[simp] theorem jumpTo_pc (p : Word) : (jumpTo p s).pc = p := rfl
@[simp] theorem jumpTo_i (p : Word) : (jumpTo p s).i = s.i := rfl
@[simp] theorem jumpTo_sp (p : Word) : (jumpTo p s).sp = s.sp := rfl
@[simp] theorem jumpTo_stack (p : Word) : (jumpTo p s).stack = s.stack := rfl
@[simp] theorem jumpTo_dt (p : Word) : (jumpTo p s).dt = s.dt := rfl
@[simp] theorem jumpTo_st (p : Word) : (jumpTo p s).st = s.st := rfl
@[simp] theorem jumpTo_fb (p : Word) : (jumpTo p s).fb = s.fb := rfl
@[simp] theorem jumpTo_keys (p : Word) : (jumpTo p s).keys = s.keys := rfl
@[simp] theorem jumpTo_w (p : Word) : (jumpTo p s).w = s.w := rfl
@[simp] theorem jumpTo_dirty (p : Word) : (jumpTo p s).dirty = s.dirty := rfl
@[simp] theorem jumpTo_halted (p : Word) : (jumpTo p s).halted = s.halted := rfl
@[simp] theorem jumpTo_err (p : Word) : (jumpTo p s).err = s.err := rfl
@[simp] theorem jumpTo_beep (p : Word) : (jumpTo p s).beep = s.beep := rfl
@[simp] theorem jumpTo_present (p : Word) : (jumpTo p s).present = s.present := rfl
@[simp] theorem jumpTo_rndIn (p : Word) : (jumpTo p s).rndIn = s.rndIn := rfl
@[simp] theorem jumpTo_inputs (p : Word) : (jumpTo p s).inputs = s.inputs := rfl
@[simp] theorem jumpTo_config (p : Word) : (jumpTo p s).config = s.config := rfl
@[simp] theorem jumpTo_draws (p : Word) : (jumpTo p s).draws = s.draws := rfl

/-! ### advance -/

@[simp] theorem advance_mem (n : Word) : (advance n s).mem = s.mem := rfl
@[simp] theorem advance_v (n : Word) : (advance n s).v = s.v := rfl
@[simp] theorem advance_pc (n : Word) : (advance n s).pc = s.pc + n := rfl
@[simp] theorem advance_i (n : Word) : (advance n s).i = s.i := rfl
@[simp] theorem advance_sp (n : Word) : (advance n s).sp = s.sp := rfl
@[simp] theorem advance_stack (n : Word) : (advance n s).stack = s.stack := rfl
@[simp] theorem advance_dt (n : Word) : (advance n s).dt = s.dt := rfl
@[simp] theorem advance_st (n : Word) : (advance n s).st = s.st := rfl
@[simp] theorem advance_fb (n : Word) : (advance n s).fb = s.fb := rfl
@[simp] theorem advance_keys (n : Word) : (advance n s).keys = s.keys := rfl
@[simp] theorem advance_w (n : Word) : (advance n s).w = s.w := rfl
@[simp] theorem advance_dirty (n : Word) : (advance n s).dirty = s.dirty := rfl
@[simp] theorem advance_halted (n : Word) : (advance n s).halted = s.halted := rfl
@[simp] theorem advance_err (n : Word) : (advance n s).err = s.err := rfl
@[simp] theorem advance_beep (n : Word) : (advance n s).beep = s.beep := rfl
@[simp] theorem advance_present (n : Word) : (advance n s).present = s.present := rfl
@[simp] theorem advance_rndIn (n : Word) : (advance n s).rndIn = s.rndIn := rfl
@[simp] theorem advance_inputs (n : Word) : (advance n s).inputs = s.inputs := rfl
@[simp] theorem advance_config (n : Word) : (advance n s).config = s.config := rfl
@[simp] theorem advance_draws (n : Word) : (advance n s).draws = s.draws := rfl

/-! ### next2 -/

@[simp] theorem next2_mem : (next2 s).mem = s.mem := rfl
@[simp] theorem next2_v : (next2 s).v = s.v := rfl
@[simp] theorem next2_pc : (next2 s).pc = s.pc + 2 := rfl
@[simp] theorem next2_i : (next2 s).i = s.i := rfl
@[simp] theorem next2_sp : (next2 s).sp = s.sp := rfl
@[simp] theorem next2_stack : (next2 s).stack = s.stack := rfl
@[simp] theorem next2_dt : (next2 s).dt = s.dt := rfl
@[simp] theorem next2_st : (next2 s).st = s.st := rfl
@[simp] theorem next2_fb : (next2 s).fb = s.fb := rfl
@[simp] theorem next2_keys : (next2 s).keys = s.keys := rfl
@[simp] theorem next2_w : (next2 s).w = s.w := rfl
@[simp] theorem next2_dirty : (next2 s).dirty = s.dirty := rfl
@[simp] theorem next2_halted : (next2 s).halted = s.halted := rfl
@[simp] theorem next2_err : (next2 s).err = s.err := rfl
@[simp] theorem next2_beep : (next2 s).beep = s.beep := rfl
@[simp] theorem next2_present : (next2 s).present = s.present := rfl
@[simp] theorem next2_rndIn : (next2 s).rndIn = s.rndIn := rfl
@[simp] theorem next2_inputs : (next2 s).inputs = s.inputs := rfl
@[simp] theorem next2_config : (next2 s).config = s.config := rfl
@[simp] theorem next2_draws : (next2 s).draws = s.draws := rfl

/-! ### writeI -/

@[simp] theorem writeI_mem (a : Word) : (writeI a s).mem = s.mem := rfl
@[simp] theorem writeI_v (a : Word) : (writeI a s).v = s.v := rfl
@[simp] theorem writeI_pc (a : Word) : (writeI a s).pc = s.pc := rfl
@[simp] theorem writeI_i (a : Word) : (writeI a s).i = a := rfl
@[simp] theorem writeI_sp (a : Word) : (writeI a s).sp = s.sp := rfl
@[simp] theorem writeI_stack (a : Word) : (writeI a s).stack = s.stack := rfl
@[simp] theorem writeI_dt (a : Word) : (writeI a s).dt = s.dt := rfl
@[simp] theorem writeI_st (a : Word) : (writeI a s).st = s.st := rfl
@[simp] theorem writeI_fb (a : Word) : (writeI a s).fb = s.fb := rfl
@[simp] theorem writeI_keys (a : Word) : (writeI a s).keys = s.keys := rfl
@[simp] theorem writeI_w (a : Word) : (writeI a s).w = s.w := rfl
@[simp] theorem writeI_dirty (a : Word) : (writeI a s).dirty = s.dirty := rfl
@[simp] theorem writeI_halted (a : Word) : (writeI a s).halted = s.halted := rfl
@[simp] theorem writeI_err (a : Word) : (writeI a s).err = s.err := rfl
@[simp] theorem writeI_beep (a : Word) : (writeI a s).beep = s.beep := rfl
@[simp] theorem writeI_present (a : Word) : (writeI a s).present = s.present := rfl
@[simp] theorem writeI_rndIn (a : Word) : (writeI a s).rndIn = s.rndIn := rfl
@[simp] theorem writeI_inputs (a : Word) : (writeI a s).inputs = s.inputs := rfl
@[simp] theorem writeI_config (a : Word) : (writeI a s).config = s.config := rfl
@[simp] theorem writeI_draws (a : Word) : (writeI a s).draws = s.draws := rfl

/-! ### pushReturn -/

@[simp] theorem pushReturn_mem (p : Word) : (pushReturn p s).mem = s.mem := rfl
@[simp] theorem pushReturn_v (p : Word) : (pushReturn p s).v = s.v := rfl
@[simp] theorem pushReturn_pc (p : Word) : (pushReturn p s).pc = s.pc := rfl
@[simp] theorem pushReturn_i (p : Word) : (pushReturn p s).i = s.i := rfl
@[simp] theorem pushReturn_sp (p : Word) : (pushReturn p s).sp = s.sp + 1 := rfl
@[simp] theorem pushReturn_stack (p : Word) : (pushReturn p s).stack = s.stack.set (s.sp + 1).val p (s.sp + 1).isLt := rfl
@[simp] theorem pushReturn_dt (p : Word) : (pushReturn p s).dt = s.dt := rfl
@[simp] theorem pushReturn_st (p : Word) : (pushReturn p s).st = s.st := rfl
@[simp] theorem pushReturn_fb (p : Word) : (pushReturn p s).fb = s.fb := rfl
@[simp] theorem pushReturn_keys (p : Word) : (pushReturn p s).keys = s.keys := rfl
@[simp] theorem pushReturn_w (p : Word) : (pushReturn p s).w = s.w := rfl
@[simp] theorem pushReturn_dirty (p : Word) : (pushReturn p s).dirty = s.dirty := rfl
@[simp] theorem pushReturn_halted (p : Word) : (pushReturn p s).halted = s.halted := rfl
@[simp] theorem pushReturn_err (p : Word) : (pushReturn p s).err = s.err := rfl
@[simp] theorem pushReturn_beep (p : Word) : (pushReturn p s).beep = s.beep := rfl
@[simp] theorem pushReturn_present (p : Word) : (pushReturn p s).present = s.present := rfl
@[simp] theorem pushReturn_rndIn (p : Word) : (pushReturn p s).rndIn = s.rndIn := rfl
@[simp] theorem pushReturn_inputs (p : Word) : (pushReturn p s).inputs = s.inputs := rfl
@[simp] theorem pushReturn_config (p : Word) : (pushReturn p s).config = s.config := rfl
@[simp] theorem pushReturn_draws (p : Word) : (pushReturn p s).draws = s.draws := rfl

/-! ### popReturn -/

@[simp] theorem popReturn_mem : (popReturn s).mem = s.mem := rfl
@[simp] theorem popReturn_v : (popReturn s).v = s.v := rfl
@[simp] theorem popReturn_pc : (popReturn s).pc = s.pc := rfl
@[simp] theorem popReturn_i : (popReturn s).i = s.i := rfl
@[simp] theorem popReturn_sp : (popReturn s).sp = s.sp - 1 := rfl
@[simp] theorem popReturn_stack : (popReturn s).stack = s.stack := rfl
@[simp] theorem popReturn_dt : (popReturn s).dt = s.dt := rfl
@[simp] theorem popReturn_st : (popReturn s).st = s.st := rfl
@[simp] theorem popReturn_fb : (popReturn s).fb = s.fb := rfl
@[simp] theorem popReturn_keys : (popReturn s).keys = s.keys := rfl
@[simp] theorem popReturn_w : (popReturn s).w = s.w := rfl
@[simp] theorem popReturn_dirty : (popReturn s).dirty = s.dirty := rfl
@[simp] theorem popReturn_halted : (popReturn s).halted = s.halted := rfl
@[simp] theorem popReturn_err : (popReturn s).err = s.err := rfl
@[simp] theorem popReturn_beep : (popReturn s).beep = s.beep := rfl
@[simp] theorem popReturn_present : (popReturn s).present = s.present := rfl
@[simp] theorem popReturn_rndIn : (popReturn s).rndIn = s.rndIn := rfl
@[simp] theorem popReturn_inputs : (popReturn s).inputs = s.inputs := rfl
@[simp] theorem popReturn_config : (popReturn s).config = s.config := rfl
@[simp] theorem popReturn_draws : (popReturn s).draws = s.draws := rfl

/-! ### writeFb -/

@[simp] theorem writeFb_mem (f : Framebuffer) : (writeFb f s).mem = s.mem := rfl
@[simp] theorem writeFb_v (f : Framebuffer) : (writeFb f s).v = s.v := rfl
@[simp] theorem writeFb_pc (f : Framebuffer) : (writeFb f s).pc = s.pc := rfl
@[simp] theorem writeFb_i (f : Framebuffer) : (writeFb f s).i = s.i := rfl
@[simp] theorem writeFb_sp (f : Framebuffer) : (writeFb f s).sp = s.sp := rfl
@[simp] theorem writeFb_stack (f : Framebuffer) : (writeFb f s).stack = s.stack := rfl
@[simp] theorem writeFb_dt (f : Framebuffer) : (writeFb f s).dt = s.dt := rfl
@[simp] theorem writeFb_st (f : Framebuffer) : (writeFb f s).st = s.st := rfl
@[simp] theorem writeFb_fb (f : Framebuffer) : (writeFb f s).fb = f := rfl
@[simp] theorem writeFb_keys (f : Framebuffer) : (writeFb f s).keys = s.keys := rfl
@[simp] theorem writeFb_w (f : Framebuffer) : (writeFb f s).w = s.w := rfl
@[simp] theorem writeFb_dirty (f : Framebuffer) : (writeFb f s).dirty = true := rfl
@[simp] theorem writeFb_halted (f : Framebuffer) : (writeFb f s).halted = s.halted := rfl
@[simp] theorem writeFb_err (f : Framebuffer) : (writeFb f s).err = s.err := rfl
@[simp] theorem writeFb_beep (f : Framebuffer) : (writeFb f s).beep = s.beep := rfl
@[simp] theorem writeFb_present (f : Framebuffer) : (writeFb f s).present = s.present := rfl
@[simp] theorem writeFb_rndIn (f : Framebuffer) : (writeFb f s).rndIn = s.rndIn := rfl
@[simp] theorem writeFb_inputs (f : Framebuffer) : (writeFb f s).inputs = s.inputs := rfl
@[simp] theorem writeFb_config (f : Framebuffer) : (writeFb f s).config = s.config := rfl
@[simp] theorem writeFb_draws (f : Framebuffer) : (writeFb f s).draws = s.draws := rfl

/-! ### writeDT -/

@[simp] theorem writeDT_mem (b : Byte) : (writeDT b s).mem = s.mem := rfl
@[simp] theorem writeDT_v (b : Byte) : (writeDT b s).v = s.v := rfl
@[simp] theorem writeDT_pc (b : Byte) : (writeDT b s).pc = s.pc := rfl
@[simp] theorem writeDT_i (b : Byte) : (writeDT b s).i = s.i := rfl
@[simp] theorem writeDT_sp (b : Byte) : (writeDT b s).sp = s.sp := rfl
@[simp] theorem writeDT_stack (b : Byte) : (writeDT b s).stack = s.stack := rfl
@[simp] theorem writeDT_dt (b : Byte) : (writeDT b s).dt = b := rfl
@[simp] theorem writeDT_st (b : Byte) : (writeDT b s).st = s.st := rfl
@[simp] theorem writeDT_fb (b : Byte) : (writeDT b s).fb = s.fb := rfl
@[simp] theorem writeDT_keys (b : Byte) : (writeDT b s).keys = s.keys := rfl
@[simp] theorem writeDT_w (b : Byte) : (writeDT b s).w = s.w := rfl
@[simp] theorem writeDT_dirty (b : Byte) : (writeDT b s).dirty = s.dirty := rfl
@[simp] theorem writeDT_halted (b : Byte) : (writeDT b s).halted = s.halted := rfl
@[simp] theorem writeDT_err (b : Byte) : (writeDT b s).err = s.err := rfl
@[simp] theorem writeDT_beep (b : Byte) : (writeDT b s).beep = s.beep := rfl
@[simp] theorem writeDT_present (b : Byte) : (writeDT b s).present = s.present := rfl
@[simp] theorem writeDT_rndIn (b : Byte) : (writeDT b s).rndIn = s.rndIn := rfl
@[simp] theorem writeDT_inputs (b : Byte) : (writeDT b s).inputs = s.inputs := rfl
@[simp] theorem writeDT_config (b : Byte) : (writeDT b s).config = s.config := rfl
@[simp] theorem writeDT_draws (b : Byte) : (writeDT b s).draws = s.draws := rfl

/-! ### writeST -/

@[simp] theorem writeST_mem (b : Byte) : (writeST b s).mem = s.mem := rfl
@[simp] theorem writeST_v (b : Byte) : (writeST b s).v = s.v := rfl
@[simp] theorem writeST_pc (b : Byte) : (writeST b s).pc = s.pc := rfl
@[simp] theorem writeST_i (b : Byte) : (writeST b s).i = s.i := rfl
@[simp] theorem writeST_sp (b : Byte) : (writeST b s).sp = s.sp := rfl
@[simp] theorem writeST_stack (b : Byte) : (writeST b s).stack = s.stack := rfl
@[simp] theorem writeST_dt (b : Byte) : (writeST b s).dt = s.dt := rfl
@[simp] theorem writeST_st (b : Byte) : (writeST b s).st = b := rfl
@[simp] theorem writeST_fb (b : Byte) : (writeST b s).fb = s.fb := rfl
@[simp] theorem writeST_keys (b : Byte) : (writeST b s).keys = s.keys := rfl
@[simp] theorem writeST_w (b : Byte) : (writeST b s).w = s.w := rfl
@[simp] theorem writeST_dirty (b : Byte) : (writeST b s).dirty = s.dirty := rfl
@[simp] theorem writeST_halted (b : Byte) : (writeST b s).halted = s.halted := rfl
@[simp] theorem writeST_err (b : Byte) : (writeST b s).err = s.err := rfl
@[simp] theorem writeST_beep (b : Byte) : (writeST b s).beep = s.beep := rfl
@[simp] theorem writeST_present (b : Byte) : (writeST b s).present = s.present := rfl
@[simp] theorem writeST_rndIn (b : Byte) : (writeST b s).rndIn = s.rndIn := rfl
@[simp] theorem writeST_inputs (b : Byte) : (writeST b s).inputs = s.inputs := rfl
@[simp] theorem writeST_config (b : Byte) : (writeST b s).config = s.config := rfl
@[simp] theorem writeST_draws (b : Byte) : (writeST b s).draws = s.draws := rfl

/-! ### raise -/

@[simp] theorem raise_mem (c : ErrorCause) (u : Option Word) (n : Option Nat) : (raise c u n s).mem = s.mem := rfl
@[simp] theorem raise_v (c : ErrorCause) (u : Option Word) (n : Option Nat) : (raise c u n s).v = s.v := rfl
@[simp] theorem raise_pc (c : ErrorCause) (u : Option Word) (n : Option Nat) : (raise c u n s).pc = s.pc := rfl
@[simp] theorem raise_i (c : ErrorCause) (u : Option Word) (n : Option Nat) : (raise c u n s).i = s.i := rfl
@[simp] theorem raise_sp (c : ErrorCause) (u : Option Word) (n : Option Nat) : (raise c u n s).sp = s.sp := rfl
@[simp] theorem raise_stack (c : ErrorCause) (u : Option Word) (n : Option Nat) : (raise c u n s).stack = s.stack := rfl
@[simp] theorem raise_dt (c : ErrorCause) (u : Option Word) (n : Option Nat) : (raise c u n s).dt = s.dt := rfl
@[simp] theorem raise_st (c : ErrorCause) (u : Option Word) (n : Option Nat) : (raise c u n s).st = s.st := rfl
@[simp] theorem raise_fb (c : ErrorCause) (u : Option Word) (n : Option Nat) : (raise c u n s).fb = s.fb := rfl
@[simp] theorem raise_keys (c : ErrorCause) (u : Option Word) (n : Option Nat) : (raise c u n s).keys = s.keys := rfl
@[simp] theorem raise_w (c : ErrorCause) (u : Option Word) (n : Option Nat) : (raise c u n s).w = s.w := rfl
@[simp] theorem raise_dirty (c : ErrorCause) (u : Option Word) (n : Option Nat) : (raise c u n s).dirty = s.dirty := rfl
@[simp] theorem raise_halted (c : ErrorCause) (u : Option Word) (n : Option Nat) : (raise c u n s).halted = true := rfl
@[simp] theorem raise_err (c : ErrorCause) (u : Option Word) (n : Option Nat) : (raise c u n s).err = some ⟨c, s.pc, u, n⟩ := rfl
@[simp] theorem raise_beep (c : ErrorCause) (u : Option Word) (n : Option Nat) : (raise c u n s).beep = s.beep := rfl
@[simp] theorem raise_present (c : ErrorCause) (u : Option Word) (n : Option Nat) : (raise c u n s).present = s.present := rfl
@[simp] theorem raise_rndIn (c : ErrorCause) (u : Option Word) (n : Option Nat) : (raise c u n s).rndIn = s.rndIn := rfl
@[simp] theorem raise_inputs (c : ErrorCause) (u : Option Word) (n : Option Nat) : (raise c u n s).inputs = s.inputs := rfl
@[simp] theorem raise_config (c : ErrorCause) (u : Option Word) (n : Option Nat) : (raise c u n s).config = s.config := rfl
@[simp] theorem raise_draws (c : ErrorCause) (u : Option Word) (n : Option Nat) : (raise c u n s).draws = s.draws := rfl

/-! ### raiseAt -/

@[simp] theorem raiseAt_mem (c : ErrorCause) (n : Option Nat) : (raiseAt c n s).mem = s.mem := rfl
@[simp] theorem raiseAt_v (c : ErrorCause) (n : Option Nat) : (raiseAt c n s).v = s.v := rfl
@[simp] theorem raiseAt_pc (c : ErrorCause) (n : Option Nat) : (raiseAt c n s).pc = s.pc := rfl
@[simp] theorem raiseAt_i (c : ErrorCause) (n : Option Nat) : (raiseAt c n s).i = s.i := rfl
@[simp] theorem raiseAt_sp (c : ErrorCause) (n : Option Nat) : (raiseAt c n s).sp = s.sp := rfl
@[simp] theorem raiseAt_stack (c : ErrorCause) (n : Option Nat) : (raiseAt c n s).stack = s.stack := rfl
@[simp] theorem raiseAt_dt (c : ErrorCause) (n : Option Nat) : (raiseAt c n s).dt = s.dt := rfl
@[simp] theorem raiseAt_st (c : ErrorCause) (n : Option Nat) : (raiseAt c n s).st = s.st := rfl
@[simp] theorem raiseAt_fb (c : ErrorCause) (n : Option Nat) : (raiseAt c n s).fb = s.fb := rfl
@[simp] theorem raiseAt_keys (c : ErrorCause) (n : Option Nat) : (raiseAt c n s).keys = s.keys := rfl
@[simp] theorem raiseAt_w (c : ErrorCause) (n : Option Nat) : (raiseAt c n s).w = s.w := rfl
@[simp] theorem raiseAt_dirty (c : ErrorCause) (n : Option Nat) : (raiseAt c n s).dirty = s.dirty := rfl
@[simp] theorem raiseAt_halted (c : ErrorCause) (n : Option Nat) : (raiseAt c n s).halted = true := rfl
@[simp] theorem raiseAt_err (c : ErrorCause) (n : Option Nat) : (raiseAt c n s).err = some ⟨c, s.pc, some s.w, n⟩ := rfl
@[simp] theorem raiseAt_beep (c : ErrorCause) (n : Option Nat) : (raiseAt c n s).beep = s.beep := rfl
@[simp] theorem raiseAt_present (c : ErrorCause) (n : Option Nat) : (raiseAt c n s).present = s.present := rfl
@[simp] theorem raiseAt_rndIn (c : ErrorCause) (n : Option Nat) : (raiseAt c n s).rndIn = s.rndIn := rfl
@[simp] theorem raiseAt_inputs (c : ErrorCause) (n : Option Nat) : (raiseAt c n s).inputs = s.inputs := rfl
@[simp] theorem raiseAt_config (c : ErrorCause) (n : Option Nat) : (raiseAt c n s).config = s.config := rfl
@[simp] theorem raiseAt_draws (c : ErrorCause) (n : Option Nat) : (raiseAt c n s).draws = s.draws := rfl

/-! ### quiet -/

@[simp] theorem quiet_mem : (quiet s).mem = s.mem := rfl
@[simp] theorem quiet_v : (quiet s).v = s.v := rfl
@[simp] theorem quiet_pc : (quiet s).pc = s.pc := rfl
@[simp] theorem quiet_i : (quiet s).i = s.i := rfl
@[simp] theorem quiet_sp : (quiet s).sp = s.sp := rfl
@[simp] theorem quiet_stack : (quiet s).stack = s.stack := rfl
@[simp] theorem quiet_dt : (quiet s).dt = s.dt := rfl
@[simp] theorem quiet_st : (quiet s).st = s.st := rfl
@[simp] theorem quiet_fb : (quiet s).fb = s.fb := rfl
@[simp] theorem quiet_keys : (quiet s).keys = s.keys := rfl
@[simp] theorem quiet_w : (quiet s).w = s.w := rfl
@[simp] theorem quiet_dirty : (quiet s).dirty = s.dirty := rfl
@[simp] theorem quiet_halted : (quiet s).halted = s.halted := rfl
@[simp] theorem quiet_err : (quiet s).err = s.err := rfl
@[simp] theorem quiet_beep : (quiet s).beep = false := rfl
@[simp] theorem quiet_present : (quiet s).present = false := rfl
@[simp] theorem quiet_rndIn : (quiet s).rndIn = s.rndIn := rfl
@[simp] theorem quiet_inputs : (quiet s).inputs = s.inputs := rfl
@[simp] theorem quiet_config : (quiet s).config = s.config := rfl
@[simp] theorem quiet_draws : (quiet s).draws = s.draws := rfl

/-! ### timerStep -/

@[simp] theorem timerStep_mem : (timerStep s).mem = s.mem := rfl
@[simp] theorem timerStep_v : (timerStep s).v = s.v := rfl
@[simp] theorem timerStep_pc : (timerStep s).pc = s.pc := rfl
@[simp] theorem timerStep_i : (timerStep s).i = s.i := rfl
@[simp] theorem timerStep_sp : (timerStep s).sp = s.sp := rfl
@[simp] theorem timerStep_stack : (timerStep s).stack = s.stack := rfl
@[simp] theorem timerStep_dt : (timerStep s).dt = dec0 s.dt := rfl
@[simp] theorem timerStep_st : (timerStep s).st = dec0 s.st := rfl
@[simp] theorem timerStep_fb : (timerStep s).fb = s.fb := rfl
@[simp] theorem timerStep_keys : (timerStep s).keys = s.keys := rfl
@[simp] theorem timerStep_w : (timerStep s).w = s.w := rfl
@[simp] theorem timerStep_dirty : (timerStep s).dirty = s.dirty := rfl
@[simp] theorem timerStep_halted : (timerStep s).halted = s.halted := rfl
@[simp] theorem timerStep_err : (timerStep s).err = s.err := rfl
@[simp] theorem timerStep_beep : (timerStep s).beep = (s.st == 1) := rfl
@[simp] theorem timerStep_present : (timerStep s).present = s.present := rfl
@[simp] theorem timerStep_rndIn : (timerStep s).rndIn = s.rndIn := rfl
@[simp] theorem timerStep_inputs : (timerStep s).inputs = s.inputs := rfl
@[simp] theorem timerStep_config : (timerStep s).config = s.config := rfl
@[simp] theorem timerStep_draws : (timerStep s).draws = s.draws := rfl

/-! ### presentStep -/

@[simp] theorem presentStep_mem : (presentStep s).mem = s.mem := rfl
@[simp] theorem presentStep_v : (presentStep s).v = s.v := rfl
@[simp] theorem presentStep_pc : (presentStep s).pc = s.pc := rfl
@[simp] theorem presentStep_i : (presentStep s).i = s.i := rfl
@[simp] theorem presentStep_sp : (presentStep s).sp = s.sp := rfl
@[simp] theorem presentStep_stack : (presentStep s).stack = s.stack := rfl
@[simp] theorem presentStep_dt : (presentStep s).dt = s.dt := rfl
@[simp] theorem presentStep_st : (presentStep s).st = s.st := rfl
@[simp] theorem presentStep_fb : (presentStep s).fb = s.fb := rfl
@[simp] theorem presentStep_keys : (presentStep s).keys = s.keys := rfl
@[simp] theorem presentStep_w : (presentStep s).w = s.w := rfl
@[simp] theorem presentStep_dirty : (presentStep s).dirty = false := rfl
@[simp] theorem presentStep_halted : (presentStep s).halted = s.halted := rfl
@[simp] theorem presentStep_err : (presentStep s).err = s.err := rfl
@[simp] theorem presentStep_beep : (presentStep s).beep = s.beep := rfl
@[simp] theorem presentStep_present : (presentStep s).present = s.dirty := rfl
@[simp] theorem presentStep_rndIn : (presentStep s).rndIn = s.rndIn := rfl
@[simp] theorem presentStep_inputs : (presentStep s).inputs = s.inputs := rfl
@[simp] theorem presentStep_config : (presentStep s).config = s.config := rfl
@[simp] theorem presentStep_draws : (presentStep s).draws = s.draws := rfl

end Sys2Proof.Machine
end

