-- ==== Sys2Proof/Laws/Ops.lean ====
section
/-!
SUPPORT. One lemma per shared operation: registers, the address check, blocks of bytes, the pressed keys.
-/

namespace Sys2Proof.Machine

/-! ### Registers -/

@[simp] theorem readReg_writeReg (x y : Reg) (b : Byte) (s : State) :
    readReg y (writeReg x b s) = if y = x then b else readReg y s := by
  by_cases h : y = x
  · subst h; simp [readReg]
  · have hv : x.val ≠ y.val := fun e => h (Fin.ext e.symm)
    simp [readReg, h, Vector.getElem_set_ne x.isLt y.isLt hv]

/-- A register reads alike in states with the same register file. -/
theorem readReg_congr {s t : State} (h : t.v = s.v) (x : Reg) : readReg x t = readReg x s := by simp [readReg, h]

@[simp] theorem readReg_next2 (x : Reg) (s : State) : readReg x (next2 s) = readReg x s := rfl
@[simp] theorem readReg_advance (x : Reg) (n : Word) (s : State) : readReg x (advance n s) = readReg x s := rfl
@[simp] theorem readReg_jumpTo (x : Reg) (p : Word) (s : State) : readReg x (jumpTo p s) = readReg x s := rfl
@[simp] theorem readReg_writeI (x : Reg) (a : Word) (s : State) : readReg x (writeI a s) = readReg x s := rfl
@[simp] theorem readReg_writeFb (x : Reg) (f : Framebuffer) (s : State) : readReg x (writeFb f s) = readReg x s := rfl
@[simp] theorem readReg_raiseAt (x : Reg) (c : ErrorCause) (n : Option Nat) (s : State) :
    readReg x (raiseAt c n s) = readReg x s := rfl

/-- The two writes of a flag-producing instruction touch the register file and nothing else. -/
theorem writeResultAndFlag_eq (x : Reg) (r f : Byte) (s : State) :
    writeResultAndFlag x r f s = { s with v := (writeResultAndFlag x r f s).v } := by
  unfold writeResultAndFlag
  split <;> rfl

/-- What a register reads after the two writes of R106. -/
theorem readReg_writeResultAndFlag (x y : Reg) (r f : Byte) (s : State) :
    readReg y (writeResultAndFlag x r f s) =
      match s.config.vfWriteOrder with
      | .flagLast   => if y = vf then f else if y = x then r else readReg y s
      | .resultLast => if y = x then r else if y = vf then f else readReg y s := by
  unfold writeResultAndFlag
  split <;> simp [*]

theorem skipIf_eq (c : Bool) (s : State) : skipIf c s = advance (if c then 4 else 2) s := by cases c <;> rfl

/-- Register j after a block load. -/
@[simp] theorem readReg_loadRegs (a : Nat) (x j : Reg) (s : State) :
    readReg j (loadRegs a x s) = if j ≤ x then memRead (a + j.val) s else readReg j s := by
  simp [readReg, loadRegs]

/-- A block load touches the register file and nothing else. -/
theorem loadRegs_eq (a : Nat) (x : Reg) (s : State) : loadRegs a x s = { s with v := (loadRegs a x s).v } := rfl

/-! ### The address check -/

theorem checkAddr_fault (a : Nat) : checkAddr .fault a = if a < memSize then some a else none := rfl

theorem checkAddr_mask12 (a : Nat) : checkAddr .mask12 a = some (a % memSize) := rfl

/-- An admitted access reaches an address of the array. -/
theorem checkAddr_lt {p : AddrPolicy} {a e : Nat} (h : checkAddr p a = some e) : e < memSize := by
  cases p with
  | fault => simp only [checkAddr] at h; split at h <;> simp_all
  | mask12 => simp only [checkAddr, Option.some.injEq] at h; exact h ▸ Nat.mod_lt _ (by decide)

theorem firstOutOfRange_eq_none {p : AddrPolicy} {as : List Nat} :
    firstOutOfRange p as = none ↔ ∀ a ∈ as, (checkAddr p a).isSome = true := by
  simp [firstOutOfRange, List.find?_eq_none, Option.isSome_iff_ne_none]

/-- Mask12 refuses nothing (R60). -/
@[simp] theorem firstOutOfRange_mask12 (as : List Nat) : firstOutOfRange .mask12 as = none := by
  simp [firstOutOfRange_eq_none, checkAddr]

theorem mem_blockAddrs {base : Word} {n a : Nat} : a ∈ blockAddrs base n ↔ ∃ j < n, base.toNat + j = a := by
  simp [blockAddrs]

/-- Under Fault a block is refused exactly when it passes the end of memory; the address named is the lowest bad one
(R61, R170). -/
theorem firstOutOfRange_block (base : Word) (n : Nat) :
    firstOutOfRange .fault (blockAddrs base n) =
      if n = 0 ∨ base.toNat + n ≤ memSize then none else some (max base.toNat memSize) := by
  induction n with
  | zero => simp [blockAddrs, firstOutOfRange]
  | succ n ih =>
    have hsplit : blockAddrs base (n + 1) = blockAddrs base n ++ [base.toNat + n] := by
      simp [blockAddrs, List.range_succ]
    rw [hsplit, firstOutOfRange, List.find?_append]
    rw [firstOutOfRange] at ih
    rw [ih]
    by_cases h1 : n = 0 ∨ base.toNat + n ≤ memSize
    · by_cases h2 : base.toNat + (n + 1) ≤ memSize
      · have h3 : base.toNat + n < memSize := by omega
        simp [h1, h2, h3, checkAddr]
      · have h3 : ¬ base.toNat + n < memSize := by omega
        have h4 : max base.toNat memSize = base.toNat + n := by omega
        simp [h1, h2, h3, h4, checkAddr]
    · have h2 : ¬ base.toNat + (n + 1) ≤ memSize := by omega
      simp [h1, h2]

theorem checkAll_ok {as : List Nat} {body : State → State} {s : State}
    (h : firstOutOfRange s.config.addrPolicy as = none) : checkAll as body s = body s := by simp [checkAll, h]

theorem checkAll_bad {as : List Nat} {body : State → State} {s : State} {a : Nat}
    (h : firstOutOfRange s.config.addrPolicy as = some a) :
    checkAll as body s = raiseAt .memoryOutOfRange (some a) s := by simp [checkAll, h]

/-- Everything `checkAll` can do. -/
theorem checkAll_cases (as : List Nat) (body : State → State) (s : State) :
    (firstOutOfRange s.config.addrPolicy as = none ∧ checkAll as body s = body s) ∨
    (∃ a, firstOutOfRange s.config.addrPolicy as = some a ∧
      checkAll as body s = raiseAt .memoryOutOfRange (some a) s) := by
  cases h : firstOutOfRange s.config.addrPolicy as with
  | none => exact .inl ⟨rfl, checkAll_ok h⟩
  | some a => exact .inr ⟨a, rfl, checkAll_bad h⟩

/-! ### Blocks of bytes -/

/-- A byte store touches memory and nothing else. -/
theorem memWrite_eq (a : Nat) (b : Byte) (s : State) : memWrite a b s = { s with mem := (memWrite a b s).mem } := by
  unfold memWrite
  split <;> rfl

@[simp] theorem memWrite_config (a : Nat) (b : Byte) (s : State) : (memWrite a b s).config = s.config := by
  rw [memWrite_eq]

/-- Stores of a block touch memory and nothing else. -/
theorem memWriteList_eq (a : Nat) (bs : List Byte) (s : State) :
    memWriteList a bs s = { s with mem := (memWriteList a bs s).mem } := by
  induction bs generalizing a s with
  | nil => rfl
  | cons b bs ih => rw [memWriteList, ih, memWrite_eq a b s]

theorem memWrite_wf {a : Nat} {b : Byte} {s : State} (hm : s.mem.wf = true) : (memWrite a b s).mem.wf = true := by
  unfold memWrite
  split
  · exact Memory.wf_write (checkAddr_lt ‹_›) hm
  · exact hm

theorem memWriteList_wf {a : Nat} {bs : List Byte} {s : State} (hm : s.mem.wf = true) :
    (memWriteList a bs s).mem.wf = true := by
  induction bs generalizing a s with
  | nil => exact hm
  | cons b bs ih => exact ih (memWrite_wf hm)

/-- The byte at `e` after one byte store. -/
theorem memWrite_read {a e : Nat} {b : Byte} {s : State} (hm : s.mem.wf = true) :
    (memWrite a b s).mem.read e = if checkAddr s.config.addrPolicy a = some e then b else s.mem.read e := by
  unfold memWrite
  split
  · rename_i k hk
    by_cases he : e = k
    · simp [hk, he, Memory.read_write hm]
    · simp [hk, he, Memory.read_write hm, Ne.symm he]
  · rename_i hk; simp [hk]

/-- An address no byte of the block reaches keeps its byte. -/
theorem memWriteList_read_miss {a e : Nat} {bs : List Byte} {s : State} (hm : s.mem.wf = true)
    (h : ∀ j < bs.length, checkAddr s.config.addrPolicy (a + j) ≠ some e) :
    (memWriteList a bs s).mem.read e = s.mem.read e := by
  induction bs generalizing a s with
  | nil => rfl
  | cons b bs ih =>
    rw [memWriteList, ih (memWrite_wf hm), memWrite_read hm, if_neg (by simpa using h 0 (by simp))]
    intro j hj
    have := h (j + 1) (by simpa using hj)
    simpa [Nat.add_assoc, Nat.add_comm 1 j] using this

/-- Two offsets of one block reach the same address only when they are equal. -/
theorem checkAddr_inj {p : AddrPolicy} {a j k e : Nat} (hj : j < memSize) (hk : k < memSize)
    (h : checkAddr p (a + j) = some e) (h' : checkAddr p (a + k) = some e) : j = k := by
  cases p with
  | fault =>
    simp only [checkAddr] at h h'
    split at h <;> split at h' <;> simp only [Option.some.injEq, reduceCtorEq] at h h'; omega
  | mask12 =>
    simp only [checkAddr, Option.some.injEq, memSize] at h h' hj hk
    omega

/-- The address of byte j of the block holds byte j. -/
theorem memWriteList_read_hit {a e j : Nat} {bs : List Byte} {s : State} (hm : s.mem.wf = true)
    (hl : bs.length ≤ memSize) (hj : j < bs.length) (h : checkAddr s.config.addrPolicy (a + j) = some e) :
    (memWriteList a bs s).mem.read e = bs[j] := by
  induction bs generalizing a j s with
  | nil => simp at hj
  | cons b bs ih =>
    rw [List.length_cons] at hl hj
    cases j with
    | zero =>
      rw [memWriteList, memWriteList_read_miss (memWrite_wf hm), memWrite_read hm]
      · simpa using fun hne => absurd h hne
      · intro k hk hbad
        rw [memWrite_config, Nat.add_assoc] at hbad
        have := checkAddr_inj (by decide) (by omega) h hbad
        omega
    | succ j =>
      have h' : checkAddr (memWrite a b s).config.addrPolicy (a + 1 + j) = some e := by
        simpa [Nat.add_assoc, Nat.add_comm 1 j] using h
      simpa [memWriteList] using ih (a := a + 1) (memWrite_wf hm) (by omega) (by omega) h'

/-- A byte read through the address check. -/
theorem memRead_eq {a e : Nat} {s : State} (h : checkAddr s.config.addrPolicy a = some e) :
    memRead a s = s.mem.read e := by simp [memRead, h]

@[simp] theorem length_memReadList (a n : Nat) (s : State) : (memReadList a n s).length = n := by simp [memReadList]

@[simp] theorem length_bcdDigits (b : Byte) : (bcdDigits b).length = 3 := rfl

@[simp] theorem length_regsUpTo (x : Reg) (s : State) : (regsUpTo x s).length = x.val + 1 := by
  simp [regsUpTo]

/-- Byte j of the block LD [I],Vx stores is V[j]. -/
theorem getElem_regsUpTo (x : Reg) (s : State) (j : Nat) (hj : j < (regsUpTo x s).length) :
    (regsUpTo x s)[j] = readReg ⟨j, by have := length_regsUpTo x s; omega⟩ s := by
  simp [regsUpTo, readReg]

/-! ### Keys -/

theorem mem_pressedKeys {keys : BitVec 16} {k : Nat} : k ∈ pressedKeys keys ↔ k < 16 ∧ keyDown keys k = true := by
  simp [pressedKeys]

/-- The pressed keys come in ascending order. -/
theorem pairwise_pressedKeys (keys : BitVec 16) : (pressedKeys keys).Pairwise (· < ·) :=
  List.Pairwise.filter _ List.pairwise_lt_range

theorem pressedKeys_eq_nil {keys : BitVec 16} : pressedKeys keys = [] ↔ keys = 0 := by
  constructor
  · intro h
    apply BitVec.eq_of_getLsbD_eq
    intro k hk
    by_contra hne
    have : k ∈ pressedKeys keys := mem_pressedKeys.2 ⟨hk, by simpa [keyDown] using hne⟩
    simp [h] at this
  · rintro rfl; decide

/-- The key taken is one of the pressed keys. -/
theorem chooseKey_mem (k : Nat) (ks : List Nat) (s : State) : chooseKey k ks s ∈ k :: ks := by
  unfold chooseKey
  split
  · simp
  · have h : Config.freePick s.draws % (k :: ks).length < (k :: ks).length := Nat.mod_lt _ (by simp)
    rw [List.getD_eq_getElem _ _ h]
    exact List.getElem_mem h

theorem countDraw_eq (s : State) : countDraw s = { s with draws := (countDraw s).draws } := by
  unfold countDraw
  split <;> rfl

end Sys2Proof.Machine
end

