-- ==== Sys2Proof/Laws/Cycle.lean ====
section
/-!
SUPPORT. What a cycle does, said once: the key snapshot field by field, the outcome of a step case by case.
-/

namespace Sys2Proof.Machine

variable (s : State)

/-! ### The key snapshot changes keys and ports only (R101) -/

@[simp] theorem snapshot_mem : (snapshot s).mem = s.mem := by unfold snapshot takeInput; split <;> rfl
@[simp] theorem snapshot_v : (snapshot s).v = s.v := by unfold snapshot takeInput; split <;> rfl
@[simp] theorem snapshot_pc : (snapshot s).pc = s.pc := by unfold snapshot takeInput; split <;> rfl
@[simp] theorem snapshot_i : (snapshot s).i = s.i := by unfold snapshot takeInput; split <;> rfl
@[simp] theorem snapshot_sp : (snapshot s).sp = s.sp := by unfold snapshot takeInput; split <;> rfl
@[simp] theorem snapshot_stack : (snapshot s).stack = s.stack := by unfold snapshot takeInput; split <;> rfl
@[simp] theorem snapshot_dt : (snapshot s).dt = s.dt := by unfold snapshot takeInput; split <;> rfl
@[simp] theorem snapshot_st : (snapshot s).st = s.st := by unfold snapshot takeInput; split <;> rfl
@[simp] theorem snapshot_fb : (snapshot s).fb = s.fb := by unfold snapshot takeInput; split <;> rfl
@[simp] theorem snapshot_w : (snapshot s).w = s.w := by unfold snapshot takeInput; split <;> rfl
@[simp] theorem snapshot_dirty : (snapshot s).dirty = s.dirty := by unfold snapshot takeInput; split <;> rfl
@[simp] theorem snapshot_halted : (snapshot s).halted = s.halted := by unfold snapshot takeInput; split <;> rfl
@[simp] theorem snapshot_err : (snapshot s).err = s.err := by unfold snapshot takeInput; split <;> rfl
@[simp] theorem snapshot_config : (snapshot s).config = s.config := by unfold snapshot takeInput; split <;> rfl
@[simp] theorem snapshot_beep : (snapshot s).beep = false := rfl
@[simp] theorem snapshot_present : (snapshot s).present = false := rfl

/-- The snapshot where the host has named the cycle's inputs. -/
theorem snapshot_of_input {s : State} {p : PortInput} {rest : List PortInput} (h : s.inputs = p :: rest) :
    (snapshot s).keys = p.keyIn ∧ (snapshot s).rndIn = p.rndIn ∧ (snapshot s).inputs = rest := by
  unfold snapshot takeInput
  simp [h]

/-- The snapshot where the host has named none: the free values. -/
theorem snapshot_of_none {s : State} (h : s.inputs = []) :
    (snapshot s).keys = Config.freeKeyIn s.draws ∧ (snapshot s).rndIn = Config.freeRndIn s.draws ∧
      (snapshot s).inputs = [] := by
  unfold snapshot takeInput
  simp [h]

@[simp] theorem readReg_snapshot (x : Reg) : readReg x (snapshot s) = readReg x s := readReg_congr (snapshot_v s) x

/-- Fetch looks at memory, PC and the address policy alone. -/
theorem fetch_congr {s t : State} (hm : t.mem = s.mem) (hp : t.pc = s.pc) (hc : t.config = s.config) :
    fetch t = fetch s := by simp [fetch, fetchAddrs, memRead, hm, hp, hc]

@[simp] theorem fetch_snapshot : fetch (snapshot s) = fetch s :=
  fetch_congr (snapshot_mem s) (snapshot_pc s) (snapshot_config s)

/-! ### The outcome of a step -/

/-- Every instruction has a next state. -/
theorem exec_answers (i : Instr) (s : State) : ∃ t, exec i s = .next t := by
  cases i <;> exact ⟨_, rfl⟩

variable {s}

theorem step_of_halted (h : s.halted = true) : step s = .next (quiet s) := by simp [step, strobe, h]

theorem step_of_fetch_error {a : Nat} (h : s.halted = false) (hf : fetch s = .error a) :
    step s = .next (raise .memoryOutOfRange none (some a) (snapshot s)) := by
  simp [step, strobe, h, runCycle, hf]

theorem step_of_invalid {w : Word} (h : s.halted = false) (hf : fetch s = .ok w) (hd : decodeWord w = none) :
    step s = .next (raise .invalidOpcode (some w) none (executeState w s)) := by
  simp [step, strobe, h, runCycle, hf, runWord, hd, executeState]

theorem step_of_instr {w : Word} {i : Instr} (h : s.halted = false) (hf : fetch s = .ok w)
    (hd : decodeWord w = some i) : step s = afterExec (exec i (executeState w s)) := by
  simp [step, strobe, h, runCycle, hf, runWord, hd, executeState]

/-- Everything a step can do. -/
theorem step_cases {t : State} (h : step s = .next t) :
    (s.halted = true ∧ t = quiet s) ∨
    (s.halted = false ∧ ∃ a, fetch s = .error a ∧ t = raise .memoryOutOfRange none (some a) (snapshot s)) ∨
    (s.halted = false ∧ ∃ w, fetch s = .ok w ∧ decodeWord w = none ∧
      t = raise .invalidOpcode (some w) none (executeState w s)) ∨
    (s.halted = false ∧ ∃ w i u, fetch s = .ok w ∧ decodeWord w = some i ∧ exec i (executeState w s) = .next u ∧
      t = finish u) := by
  cases hh : s.halted with
  | true => exact .inl ⟨rfl, by rw [step_of_halted hh] at h; injection h with h; exact h.symm⟩
  | false =>
    right
    cases hf : fetch s with
    | error a =>
      rw [step_of_fetch_error hh hf] at h
      injection h with h
      exact .inl ⟨rfl, a, rfl, h.symm⟩
    | ok w =>
      right
      cases hd : decodeWord w with
      | none =>
        rw [step_of_invalid hh hf hd] at h
        injection h with h
        exact .inl ⟨rfl, w, rfl, hd, h.symm⟩
      | some i =>
        obtain ⟨u, hu⟩ := exec_answers i (executeState w s)
        rw [step_of_instr hh hf hd, hu] at h
        injection h with h
        exact .inr ⟨rfl, w, i, u, rfl, hd, hu, h.symm⟩

/-- A run of k + 1 strobes is a step and a run of k. -/
theorem core_run_succ {s u : State} (h : step s = .next u) (k : Nat) :
    Sys2Proof.core.run (k + 1) s = Sys2Proof.core.run k u := by
  have h' : Sys2Proof.core.step s = .next u := h
  simp only [Host.Core.run, h']

/-- A fetch under Fault (R102). -/
theorem fetch_fault (h : s.config.addrPolicy = .fault) :
    fetch s = if s.pc.toNat < 0xFFF then .ok (wordOfBytes (s.mem.read s.pc.toNat) (s.mem.read (s.pc.toNat + 1)))
      else .error (max s.pc.toNat 0x1000) := by
  have hb := firstOutOfRange_block s.pc 2
  unfold fetch fetchAddrs
  rw [h, hb]
  by_cases hp : s.pc.toNat < 0xFFF
  · have h1 : s.pc.toNat + 2 ≤ memSize := by simp only [memSize]; omega
    have h2 : s.pc.toNat < memSize := by omega
    have h3 : s.pc.toNat + 1 < memSize := by omega
    simp [h1, hp, memRead, checkAddr, h, h2, h3]
  · have h1 : ¬ (s.pc.toNat + 2 ≤ memSize) := by simp only [memSize]; omega
    simp only [h1, hp, if_false, or_false, OfNat.ofNat_ne_zero]
    rfl

/-- A fetch under Mask12 (R102). -/
theorem fetch_mask12 (h : s.config.addrPolicy = .mask12) :
    fetch s = .ok (wordOfBytes (s.mem.read (s.pc.toNat % memSize)) (s.mem.read ((s.pc.toNat + 1) % memSize))) := by
  simp [fetch, h, memRead, checkAddr]

end Sys2Proof.Machine
end

