-- ==== Sys2Proof/Laws/Decode.lean ====
section
/-!
SUPPORT. The fields of a packed word, and the bytes of a word.
-/

namespace Sys2Proof

/-- The low part of a concatenation. -/
theorem extract_append_low {n m k : Nat} (a : BitVec n) (b : BitVec m) (h : k ≤ m) :
    (a ++ b).extractLsb' 0 k = b.setWidth k := by
  ext j hj
  simp [BitVec.getLsbD_append, show j < m by omega]

/-- A part of a concatenation above its low operand. -/
theorem extract_append_high {n m k i : Nat} (a : BitVec n) (b : BitVec m) :
    (a ++ b).extractLsb' (m + i) k = a.extractLsb' i k := by
  ext j hj
  have h : ¬ m + i + j < m := by omega
  simp [BitVec.getLsbD_append, h, show m + i + j - m = i + j by omega]

theorem extract_self {n : Nat} (a : BitVec n) : a.extractLsb' 0 n = a := by
  ext j hj; simp

variable (h : BitVec 4) (x y : Reg) (n : RowCount) (kk : Byte) (nnn : Addr12)

@[simp] theorem highNibble_packNNN : highNibble (packNNN h nnn) = h :=
  (extract_append_high (i := 0) h nnn).trans (extract_self h)

@[simp] theorem fieldNNN_packNNN : fieldNNN (packNNN h nnn) = nnn :=
  (extract_append_low h nnn (Nat.le_refl 12)).trans (BitVec.setWidth_eq nnn)

@[simp] theorem highNibble_packXKK : highNibble (packXKK h x kk) = h :=
  (extract_append_high (i := 4) (h ++ (BitVec.ofFin x : BitVec 4)) kk).trans
    ((extract_append_high (i := 0) h _).trans (extract_self h))

@[simp] theorem fieldX_packXKK : fieldX (packXKK h x kk) = x :=
  congrArg BitVec.toFin ((extract_append_high (i := 0) (h ++ (BitVec.ofFin x : BitVec 4)) kk).trans
    ((extract_append_low h _ (Nat.le_refl 4)).trans (BitVec.setWidth_eq _)))

@[simp] theorem fieldKK_packXKK : fieldKK (packXKK h x kk) = kk :=
  (extract_append_low (h ++ (BitVec.ofFin x : BitVec 4)) kk (Nat.le_refl 8)).trans (BitVec.setWidth_eq kk)

@[simp] theorem lowByte_packXKK : lowByte (packXKK h x kk) = kk := fieldKK_packXKK h x kk

@[simp] theorem highNibble_packXYN : highNibble (packXYN h x y n) = h :=
  (extract_append_high (i := 8) (h ++ (BitVec.ofFin x : BitVec 4) ++ (BitVec.ofFin y : BitVec 4)) _).trans
    ((extract_append_high (i := 4) (h ++ (BitVec.ofFin x : BitVec 4)) _).trans
      ((extract_append_high (i := 0) h _).trans (extract_self h)))

@[simp] theorem fieldX_packXYN : fieldX (packXYN h x y n) = x :=
  congrArg BitVec.toFin
    ((extract_append_high (i := 4) (h ++ (BitVec.ofFin x : BitVec 4) ++ (BitVec.ofFin y : BitVec 4)) _).trans
      ((extract_append_high (i := 0) (h ++ (BitVec.ofFin x : BitVec 4)) _).trans
        ((extract_append_low h _ (Nat.le_refl 4)).trans (BitVec.setWidth_eq _))))

@[simp] theorem fieldY_packXYN : fieldY (packXYN h x y n) = y :=
  congrArg BitVec.toFin
    ((extract_append_high (i := 0) (h ++ (BitVec.ofFin x : BitVec 4) ++ (BitVec.ofFin y : BitVec 4)) _).trans
      ((extract_append_low (h ++ (BitVec.ofFin x : BitVec 4)) _ (Nat.le_refl 4)).trans (BitVec.setWidth_eq _)))

@[simp] theorem lowNibble_packXYN : lowNibble (packXYN h x y n) = BitVec.ofFin n :=
  (extract_append_low (h ++ (BitVec.ofFin x : BitVec 4) ++ (BitVec.ofFin y : BitVec 4)) _ (Nat.le_refl 4)).trans
    (BitVec.setWidth_eq _)

@[simp] theorem fieldN_packXYN : fieldN (packXYN h x y n) = n := congrArg BitVec.toFin (lowNibble_packXYN h x y n)

/-- The two bytes of a word, high byte first, make the word again (R57). -/
@[simp] theorem wordOfBytes_bytes (w : Word) : wordOfBytes (highByte w) (lowByte w) = w := by
  apply BitVec.eq_of_getLsbD_eq
  intro j hj
  simp only [wordOfBytes, highByte, lowByte, BitVec.getLsbD_append, BitVec.getLsbD_extractLsb']
  by_cases h8 : j < 8
  · simp [h8]
  · simp [h8, show j - 8 < 8 by omega, show 8 + (j - 8) = j by omega]

@[simp] theorem highByte_wordOfBytes (a b : Byte) : highByte (wordOfBytes a b) = a :=
  (extract_append_high (i := 0) a b).trans (extract_self a)

@[simp] theorem lowByte_wordOfBytes (a b : Byte) : lowByte (wordOfBytes a b) = b :=
  (extract_append_low a b (Nat.le_refl 8)).trans (BitVec.setWidth_eq b)

/-! ### A word is its fields -/

theorem packNNN_fields (w : Word) : packNNN (highNibble w) (fieldNNN w) = w := by
  apply BitVec.eq_of_getLsbD_eq
  intro j hj
  simp only [packNNN, highNibble, fieldNNN, BitVec.getLsbD_append, BitVec.getLsbD_extractLsb']
  by_cases h : j < 12
  · simp [h]
  · simp [h, show j - 12 < 4 by omega, show 12 + (j - 12) = j by omega]

theorem packXKK_fields (w : Word) : packXKK (highNibble w) (fieldX w) (fieldKK w) = w := by
  apply BitVec.eq_of_getLsbD_eq
  intro j hj
  have hx : (BitVec.ofFin (fieldX w) : BitVec 4) = w.extractLsb' 8 4 := rfl
  simp only [packXKK, hx, highNibble, fieldKK, BitVec.getLsbD_append, BitVec.getLsbD_extractLsb']
  by_cases h : j < 8
  · simp [h]
  · by_cases h' : j < 12
    · simp [h, show j - 8 < 4 by omega, show 8 + (j - 8) = j by omega]
    · simp [h, show ¬ (j - 8 < 4) by omega, show j - 8 - 4 < 4 by omega, show 12 + (j - 8 - 4) = j by omega]

theorem packXYN_fields (w : Word) : packXYN (highNibble w) (fieldX w) (fieldY w) (fieldN w) = w := by
  apply BitVec.eq_of_getLsbD_eq
  intro j hj
  have hx : (BitVec.ofFin (fieldX w) : BitVec 4) = w.extractLsb' 8 4 := rfl
  have hy : (BitVec.ofFin (fieldY w) : BitVec 4) = w.extractLsb' 4 4 := rfl
  have hn : (BitVec.ofFin (fieldN w) : BitVec 4) = w.extractLsb' 0 4 := rfl
  simp only [packXYN, hx, hy, hn, highNibble, BitVec.getLsbD_append, BitVec.getLsbD_extractLsb']
  by_cases h : j < 4
  · simp [h]
  · by_cases h' : j < 8
    · simp [h, show j - 4 < 4 by omega, show 4 + (j - 4) = j by omega]
    · by_cases h'' : j < 12
      · simp [h, show ¬ (j - 4 < 4) by omega, show j - 4 - 4 < 4 by omega, show 8 + (j - 4 - 4) = j by omega]
      · simp [h, show ¬ (j - 4 < 4) by omega, show ¬ (j - 4 - 4 < 4) by omega, show j - 4 - 4 - 4 < 4 by omega,
          show 12 + (j - 4 - 4 - 4) = j by omega]

/-! ### Masks of the opcode map (R74) as fields -/

/-- The mask of a row keyed by the high nibble alone. -/
theorem and_F000 (w : Word) : w &&& 0xF000#16 = (highNibble w ++ 0#12 : BitVec 16) := by
  apply BitVec.eq_of_getLsbD_eq
  intro j hj
  have hm : ∀ j < 16, (0xF000#16).getLsbD j = decide (12 ≤ j) := by decide
  simp only [highNibble, BitVec.getLsbD_and, BitVec.getLsbD_append, BitVec.getLsbD_extractLsb', hm j hj]
  by_cases h : j < 12
  · simp [h]
  · simp [h, show 12 ≤ j by omega, show j - 12 < 4 by omega, show 12 + (j - 12) = j by omega]

/-- The mask of a row keyed by the high and the low nibble. -/
theorem and_F00F (w : Word) : w &&& 0xF00F#16 = (highNibble w ++ 0#8 ++ lowNibble w : BitVec 16) := by
  apply BitVec.eq_of_getLsbD_eq
  intro j hj
  have hm : ∀ j < 16, (0xF00F#16).getLsbD j = (decide (12 ≤ j) || decide (j < 4)) := by decide
  simp only [highNibble, lowNibble, BitVec.getLsbD_and, BitVec.getLsbD_append, BitVec.getLsbD_extractLsb', hm j hj]
  by_cases h : j < 4
  · simp [h]
  · by_cases h' : j < 12
    · simp [h, show j - 4 < 8 by omega, show ¬ 12 ≤ j by omega]
    · simp [h, show ¬ (j - 4 < 8) by omega, show 12 ≤ j by omega, show j - 4 - 8 < 4 by omega,
        show 12 + (j - 4 - 8) = j by omega]

/-- The mask of a row keyed by the high nibble and the low byte. -/
theorem and_F0FF (w : Word) : w &&& 0xF0FF#16 = (highNibble w ++ 0#4 ++ lowByte w : BitVec 16) := by
  apply BitVec.eq_of_getLsbD_eq
  intro j hj
  have hm : ∀ j < 16, (0xF0FF#16).getLsbD j = (decide (12 ≤ j) || decide (j < 8)) := by decide
  simp only [highNibble, lowByte, BitVec.getLsbD_and, BitVec.getLsbD_append, BitVec.getLsbD_extractLsb', hm j hj]
  by_cases h : j < 8
  · simp [h]
  · by_cases h' : j < 12
    · simp [h, show j - 8 < 4 by omega, show ¬ 12 ≤ j by omega]
    · simp [h, show ¬ (j - 8 < 4) by omega, show 12 ≤ j by omega, show j - 8 - 4 < 4 by omega,
        show 12 + (j - 8 - 4) = j by omega]

/-- A word that a row of mask 0xF000 selects has the row's high nibble. -/
theorem keys_F000 {w v : Word} (h : w &&& 0xF000#16 = v) : highNibble w = v.extractLsb' 12 4 := by
  rw [← h, and_F000]
  exact ((extract_append_high (i := 0) (highNibble w) (0#12)).trans (extract_self _)).symm

/-- A word that a row of mask 0xF00F selects has the row's high and low nibble. -/
theorem keys_F00F {w v : Word} (h : w &&& 0xF00F#16 = v) :
    highNibble w = v.extractLsb' 12 4 ∧ lowNibble w = v.extractLsb' 0 4 := by
  rw [← h, and_F00F]
  exact ⟨((extract_append_high (i := 8) (highNibble w ++ 0#8) (lowNibble w)).trans
      ((extract_append_high (i := 0) (highNibble w) (0#8)).trans (extract_self _))).symm,
    ((extract_append_low (highNibble w ++ 0#8) (lowNibble w) (Nat.le_refl 4)).trans (BitVec.setWidth_eq _)).symm⟩

/-- A word that a row of mask 0xF0FF selects has the row's high nibble and low byte. -/
theorem keys_F0FF {w v : Word} (h : w &&& 0xF0FF#16 = v) :
    highNibble w = v.extractLsb' 12 4 ∧ lowByte w = v.extractLsb' 0 8 := by
  rw [← h, and_F0FF]
  exact ⟨((extract_append_high (i := 4) (highNibble w ++ 0#4) (lowByte w)).trans
      ((extract_append_high (i := 0) (highNibble w) (0#4)).trans (extract_self _))).symm,
    ((extract_append_low (highNibble w ++ 0#4) (lowByte w) (Nat.le_refl 8)).trans (BitVec.setWidth_eq _)).symm⟩

end Sys2Proof
end

