-- ==== Sys2Proof/Laws/Display.lean ====
section
/-!
SUPPORT. What drawing does to a pixel and to the collision, and that framebuffers with equal pixels are equal.
-/

namespace Sys2Proof.Machine

/-- Framebuffers that agree on every pixel of the grid are equal. -/
theorem framebuffer_ext {f g : Framebuffer} (h : ∀ c < 64, ∀ r < 32, pixel f c r = pixel g c r) : f = g := by
  apply Vector.ext
  intro r hr
  apply BitVec.eq_of_getLsbD_eq
  intro c hc
  simpa [pixel, hr] using h c hc r hr

/-- There is no pixel outside the grid (R194). -/
theorem pixel_outside {f : Framebuffer} {c r : Nat} (h : ¬ (c < 64 ∧ r < 32)) : pixel f c r = false := by
  unfold pixel
  split
  · exact BitVec.getLsbD_of_ge _ _ (by omega)
  · rfl

@[simp] theorem pixel_blankFb (c r : Nat) : pixel blankFb c r = false := by
  unfold pixel blankFb
  split <;> simp

theorem pixel_togglePixel (f : Framebuffer) (c r c' r' : Nat) :
    pixel (togglePixel f c r) c' r' = (pixel f c' r' ^^ decide (c' = c ∧ r' = r ∧ c < 64 ∧ r < 32)) := by
  unfold togglePixel
  split
  · rename_i h
    by_cases hr' : r' < 32
    · by_cases hr : r' = r
      · subst hr
        by_cases hc : c' = c
        · subst hc; simp [pixel, h]
        · simp [pixel, hr', hc, h, BitVec.getLsbD_twoPow, Ne.symm hc]
      · simp [pixel, hr', hr, Vector.getElem_set_ne h.2 hr' (Ne.symm hr)]
    · have : ¬ (c' = c ∧ r' = r ∧ c < 64 ∧ r < 32) := by omega
      simp [pixel, hr', this]
  · rename_i h
    have : ¬ (c' = c ∧ r' = r ∧ c < 64 ∧ r < 32) := by omega
    simp [this]

/-- A pixel of one sprite row: row r, columns c0+k to c0+k+n-1, of sprite byte b. -/
def rowCovers (b : Byte) (c0 r k n c' r' : Nat) : Bool :=
  decide (r' = r ∧ c0 + k ≤ c' ∧ c' < c0 + k + n ∧ c' < 64 ∧ r < 32) && spriteBit b (c' - c0)

theorem rowCovers_zero (b : Byte) (c0 r k c' r' : Nat) : rowCovers b c0 r k 0 c' r' = false := by
  simp [rowCovers]; omega

/-- The leftmost column of a row piece and the columns right of it. -/
theorem rowCovers_succ (b : Byte) (c0 r k n c' r' : Nat) :
    rowCovers b c0 r k (n + 1) c' r' =
      ((spriteBit b k && decide (c' = c0 + k ∧ r' = r ∧ c0 + k < 64 ∧ r < 32)) ^^ rowCovers b c0 r (k + 1) n c' r') := by
  unfold rowCovers
  by_cases hc : c' = c0 + k
  · subst hc
    have h1 : ¬ (c0 + (k + 1) ≤ c0 + k) := by omega
    have h2 : c0 + k < c0 + k + (n + 1) := by omega
    simp [h1, h2, Bool.and_comm]
  · have h1 : (r' = r ∧ c0 + k ≤ c' ∧ c' < c0 + k + (n + 1) ∧ c' < 64 ∧ r < 32) ↔
        (r' = r ∧ c0 + (k + 1) ≤ c' ∧ c' < c0 + (k + 1) + n ∧ c' < 64 ∧ r < 32) := by omega
    simp [h1, hc]

/-- Two different columns of one row piece are different pixels. -/
theorem pixel_drawBit (c r : Nat) (d : Canvas) (c' r' : Nat) :
    pixel (drawBit c r d).1 c' r' = (pixel d.1 c' r' ^^ decide (c' = c ∧ r' = r ∧ c < 64 ∧ r < 32)) :=
  pixel_togglePixel d.1 c r c' r'

/-- Everything a piece of a sprite row does to the pixels. -/
theorem pixel_drawCols (b : Byte) (c0 r k n : Nat) (d : Canvas) (c' r' : Nat) :
    pixel (drawCols b c0 r k n d).1 c' r' = (pixel d.1 c' r' ^^ rowCovers b c0 r k n c' r') := by
  induction n generalizing k d with
  | zero => simp [drawCols, rowCovers_zero]
  | succ n ih =>
    rw [drawCols, ih, rowCovers_succ]
    by_cases hs : spriteBit b k = true
    · simp only [hs, if_true, pixel_drawBit, Bool.true_and, Bool.xor_assoc]
    · simp [hs]

/-- Everything a piece of a sprite row does to the collision: a covered pixel was on. -/
theorem hit_drawCols (b : Byte) (c0 r k n : Nat) (d : Canvas) :
    (drawCols b c0 r k n d).2 = true ↔
      d.2 = true ∨ ∃ c' r', rowCovers b c0 r k n c' r' = true ∧ pixel d.1 c' r' = true := by
  induction n generalizing k d with
  | zero => simp [drawCols, rowCovers_zero]
  | succ n ih =>
    rw [drawCols, ih]
    have later : ∀ c' r', rowCovers b c0 r (k + 1) n c' r' = true → c' ≠ c0 + k := by
      intro c' r' h; simp only [rowCovers, Bool.and_eq_true, decide_eq_true_eq] at h; omega
    have split : ∀ c' r', rowCovers b c0 r k (n + 1) c' r' = true ↔
        (spriteBit b k = true ∧ c' = c0 + k ∧ r' = r ∧ c0 + k < 64 ∧ r < 32) ∨
          rowCovers b c0 r (k + 1) n c' r' = true := by
      intro c' r'
      rw [rowCovers_succ]
      by_cases hl : rowCovers b c0 r (k + 1) n c' r' = true
      · have := later c' r' hl
        simp [hl, this]
      · simp [hl]
    by_cases hs : spriteBit b k = true
    · simp only [hs, if_true, split, true_and]
      constructor
      · rintro (h | ⟨c', r', hc, hp⟩)
        · simp only [drawBit, Bool.or_eq_true] at h
          rcases h with h | h
          · exact .inl h
          · have hg : c0 + k < 64 ∧ r < 32 := by
              by_contra hn
              rw [pixel_outside hn] at h
              cases h
            exact .inr ⟨c0 + k, r, .inl ⟨rfl, rfl, hg⟩, h⟩
        · rw [pixel_drawBit] at hp
          have hne := later c' r' hc
          exact .inr ⟨c', r', .inr hc, by simpa [hne] using hp⟩
      · rintro (h | ⟨c', r', ⟨rfl, rfl, _⟩ | hc, hp⟩)
        · exact .inl (by simp [drawBit, h])
        · exact .inl (by simp [drawBit, hp])
        · have hne := later c' r' hc
          exact .inr ⟨c', r', hc, by rw [pixel_drawBit]; simpa [hne] using hp⟩
    · simp only [hs, split, false_and, false_or, Bool.false_eq_true, if_false]

/-- The pixel (c, r) of the grid lies under a 1 bit of the sprite drawn at (c0, r0) (R192, R193). -/
def covers (rows : List Byte) (c0 r0 c r : Nat) : Bool :=
  decide (c < 64 ∧ r < 32 ∧ c0 ≤ c ∧ c < c0 + 8 ∧ r0 ≤ r) && spriteBit (rows.getD (r - r0) 0) (c - c0)

theorem covers_nil (c0 r0 c r : Nat) : covers [] c0 r0 c r = false := by simp [covers, spriteBit]

/-- The top row of a sprite and the rows below it. -/
theorem covers_cons (b : Byte) (bs : List Byte) (c0 r0 c r : Nat) :
    covers (b :: bs) c0 r0 c r = (rowCovers b c0 r0 0 8 c r ^^ covers bs c0 (r0 + 1) c r) := by
  unfold covers rowCovers
  by_cases hr : r = r0
  · subst hr
    have h1 : ¬ (r + 1 ≤ r) := by omega
    simp [h1]
    ac_rfl
  · by_cases hlt : r0 ≤ r
    · obtain ⟨j, hj⟩ : ∃ j, r - r0 = j + 1 := ⟨r - r0 - 1, by omega⟩
      have h1 : r - (r0 + 1) = j := by omega
      have h2 : r0 + 1 ≤ r := by omega
      simp [hr, hj, h1, h2, hlt]
    · have h1 : ¬ (r0 + 1 ≤ r) := by omega
      simp [hr, hlt, h1]

theorem covers_cons_iff (b : Byte) (bs : List Byte) (c0 r0 c r : Nat) :
    covers (b :: bs) c0 r0 c r = true ↔ rowCovers b c0 r0 0 8 c r = true ∨ covers bs c0 (r0 + 1) c r = true := by
  rw [covers_cons]
  by_cases h : rowCovers b c0 r0 0 8 c r = true
  · have : covers bs c0 (r0 + 1) c r = false := by
      simp only [rowCovers, Bool.and_eq_true, decide_eq_true_eq] at h
      simp only [covers, Bool.and_eq_false_iff, decide_eq_false_iff_not]
      omega
    simp [h, this]
  · simp [h]

/-- Everything a sprite does to the pixels (R192, R194). -/
theorem pixel_drawRows (rows : List Byte) (c0 r0 : Nat) (d : Canvas) (c r : Nat) :
    pixel (drawRows rows c0 r0 d).1 c r = (pixel d.1 c r ^^ covers rows c0 r0 c r) := by
  induction rows generalizing r0 d with
  | nil => simp [drawRows, covers_nil]
  | cons b bs ih => rw [drawRows, ih, drawRow, pixel_drawCols, covers_cons, Bool.xor_assoc]

/-- Everything a sprite does to the collision (R192). -/
theorem hit_drawRows (rows : List Byte) (c0 r0 : Nat) (d : Canvas) :
    (drawRows rows c0 r0 d).2 = true ↔
      d.2 = true ∨ ∃ c r, covers rows c0 r0 c r = true ∧ pixel d.1 c r = true := by
  induction rows generalizing r0 d with
  | nil => simp [drawRows, covers_nil]
  | cons b bs ih =>
    rw [drawRows, ih, drawRow, hit_drawCols]
    simp only [covers_cons_iff, pixel_drawCols]
    have apart : ∀ c r, covers bs c0 (r0 + 1) c r = true → rowCovers b c0 r0 0 8 c r = false := by
      intro c r h
      simp only [covers, Bool.and_eq_true, decide_eq_true_eq] at h
      simp only [rowCovers, Bool.and_eq_false_iff, decide_eq_false_iff_not]
      omega
    constructor
    · rintro ((h | ⟨c, r, hc, hp⟩) | ⟨c, r, hc, hp⟩)
      · exact .inl h
      · exact .inr ⟨c, r, .inl hc, hp⟩
      · exact .inr ⟨c, r, .inr hc, by simpa [apart c r hc] using hp⟩
    · rintro (h | ⟨c, r, hc | hc, hp⟩)
      · exact .inl (.inl h)
      · exact .inl (.inr ⟨c, r, hc, hp⟩)
      · exact .inr ⟨c, r, hc, by simpa [apart c r hc] using hp⟩

/-- The framebuffer after DRW's draw, pixel by pixel. -/
theorem pixel_drawSprite (rows : List Byte) (c0 r0 : Nat) (f : Framebuffer) (c r : Nat) :
    pixel (drawSprite rows c0 r0 f).1 c r = (pixel f c r ^^ covers rows c0 r0 c r) :=
  pixel_drawRows rows c0 r0 (f, false) c r

/-- DRW's collision: a covered pixel was on before the draw. -/
theorem hit_drawSprite (rows : List Byte) (c0 r0 : Nat) (f : Framebuffer) :
    (drawSprite rows c0 r0 f).2 = true ↔ ∃ c r, covers rows c0 r0 c r = true ∧ pixel f c r = true := by
  simpa [drawSprite] using hit_drawRows rows c0 r0 (f, false)

end Sys2Proof.Machine
end

