-- ==== Sys2Proof/Laws/PerInstr.lean ====
section
/-!
SUPPORT. Facts about every instruction as syntax, one lemma per constructor: its operands fit their fields, and its word
is selected by its row of the opcode map.
-/

namespace Sys2Proof.Laws

@[simp] theorem fits_x (x : Reg) : Operand.fits ⟨.x, x⟩ = true := by simp [Operand.fits, Field.width]
@[simp] theorem fits_y (y : Reg) : Operand.fits ⟨.y, y⟩ = true := by simp [Operand.fits, Field.width]
@[simp] theorem fits_n (n : RowCount) : Operand.fits ⟨.n, n⟩ = true := by simp [Operand.fits, Field.width]
@[simp] theorem fits_kk (kk : Byte) : Operand.fits ⟨.kk, kk.toNat⟩ = true := by
  exact decide_eq_true kk.isLt
@[simp] theorem fits_nnn (nnn : Addr12) : Operand.fits ⟨.nnn, nnn.toNat⟩ = true := by
  exact decide_eq_true nnn.isLt

/-! ### Operands: the operand types have the widths of their fields (R71) -/

/-- Every operand fits its field. -/
def Operands.Statement (i : Instr) : Prop := i.wellFormed = true

theorem Operands.cls : Operands.Statement .cls := by
  simp [Operands.Statement, Instr.wellFormed, Instr.operands]
theorem Operands.ret : Operands.Statement .ret := by
  simp [Operands.Statement, Instr.wellFormed, Instr.operands]
theorem Operands.jp (nnn : Addr12) : Operands.Statement (.jp nnn) := by
  simp [Operands.Statement, Instr.wellFormed, Instr.operands]
theorem Operands.call (nnn : Addr12) : Operands.Statement (.call nnn) := by
  simp [Operands.Statement, Instr.wellFormed, Instr.operands]
theorem Operands.seImm (x : Reg) (kk : Byte) : Operands.Statement (.seImm x kk) := by
  simp [Operands.Statement, Instr.wellFormed, Instr.operands]
theorem Operands.sneImm (x : Reg) (kk : Byte) : Operands.Statement (.sneImm x kk) := by
  simp [Operands.Statement, Instr.wellFormed, Instr.operands]
theorem Operands.seReg (x y : Reg) : Operands.Statement (.seReg x y) := by
  simp [Operands.Statement, Instr.wellFormed, Instr.operands]
theorem Operands.ldImm (x : Reg) (kk : Byte) : Operands.Statement (.ldImm x kk) := by
  simp [Operands.Statement, Instr.wellFormed, Instr.operands]
theorem Operands.addImm (x : Reg) (kk : Byte) : Operands.Statement (.addImm x kk) := by
  simp [Operands.Statement, Instr.wellFormed, Instr.operands]
theorem Operands.ldReg (x y : Reg) : Operands.Statement (.ldReg x y) := by
  simp [Operands.Statement, Instr.wellFormed, Instr.operands]
theorem Operands.orReg (x y : Reg) : Operands.Statement (.orReg x y) := by
  simp [Operands.Statement, Instr.wellFormed, Instr.operands]
theorem Operands.andReg (x y : Reg) : Operands.Statement (.andReg x y) := by
  simp [Operands.Statement, Instr.wellFormed, Instr.operands]
theorem Operands.xorReg (x y : Reg) : Operands.Statement (.xorReg x y) := by
  simp [Operands.Statement, Instr.wellFormed, Instr.operands]
theorem Operands.addReg (x y : Reg) : Operands.Statement (.addReg x y) := by
  simp [Operands.Statement, Instr.wellFormed, Instr.operands]
theorem Operands.subReg (x y : Reg) : Operands.Statement (.subReg x y) := by
  simp [Operands.Statement, Instr.wellFormed, Instr.operands]
theorem Operands.shr (x : Reg) : Operands.Statement (.shr x) := by
  simp [Operands.Statement, Instr.wellFormed, Instr.operands]
theorem Operands.subnReg (x y : Reg) : Operands.Statement (.subnReg x y) := by
  simp [Operands.Statement, Instr.wellFormed, Instr.operands]
theorem Operands.shl (x : Reg) : Operands.Statement (.shl x) := by
  simp [Operands.Statement, Instr.wellFormed, Instr.operands]
theorem Operands.sneReg (x y : Reg) : Operands.Statement (.sneReg x y) := by
  simp [Operands.Statement, Instr.wellFormed, Instr.operands]
theorem Operands.ldI (nnn : Addr12) : Operands.Statement (.ldI nnn) := by
  simp [Operands.Statement, Instr.wellFormed, Instr.operands]
theorem Operands.jpV0 (nnn : Addr12) : Operands.Statement (.jpV0 nnn) := by
  simp [Operands.Statement, Instr.wellFormed, Instr.operands]
theorem Operands.rnd (x : Reg) (kk : Byte) : Operands.Statement (.rnd x kk) := by
  simp [Operands.Statement, Instr.wellFormed, Instr.operands]
theorem Operands.drw (x y : Reg) (n : RowCount) : Operands.Statement (.drw x y n) := by
  simp [Operands.Statement, Instr.wellFormed, Instr.operands]
theorem Operands.skp (x : Reg) : Operands.Statement (.skp x) := by
  simp [Operands.Statement, Instr.wellFormed, Instr.operands]
theorem Operands.sknp (x : Reg) : Operands.Statement (.sknp x) := by
  simp [Operands.Statement, Instr.wellFormed, Instr.operands]
theorem Operands.ldVxDt (x : Reg) : Operands.Statement (.ldVxDt x) := by
  simp [Operands.Statement, Instr.wellFormed, Instr.operands]
theorem Operands.ldVxK (x : Reg) : Operands.Statement (.ldVxK x) := by
  simp [Operands.Statement, Instr.wellFormed, Instr.operands]
theorem Operands.ldDtVx (x : Reg) : Operands.Statement (.ldDtVx x) := by
  simp [Operands.Statement, Instr.wellFormed, Instr.operands]
theorem Operands.ldStVx (x : Reg) : Operands.Statement (.ldStVx x) := by
  simp [Operands.Statement, Instr.wellFormed, Instr.operands]
theorem Operands.addIVx (x : Reg) : Operands.Statement (.addIVx x) := by
  simp [Operands.Statement, Instr.wellFormed, Instr.operands]
theorem Operands.ldFVx (x : Reg) : Operands.Statement (.ldFVx x) := by
  simp [Operands.Statement, Instr.wellFormed, Instr.operands]
theorem Operands.ldBVx (x : Reg) : Operands.Statement (.ldBVx x) := by
  simp [Operands.Statement, Instr.wellFormed, Instr.operands]
theorem Operands.stRegs (x : Reg) : Operands.Statement (.stRegs x) := by
  simp [Operands.Statement, Instr.wellFormed, Instr.operands]
theorem Operands.ldRegs (x : Reg) : Operands.Statement (.ldRegs x) := by
  simp [Operands.Statement, Instr.wellFormed, Instr.operands]

/-! ### Encoding: an instruction's word is selected by its row (R74) -/

/-- Some row of the opcode map has the instruction's mnemonic and selects its word. -/
def Encoding.Statement (i : Instr) : Prop :=
  ∃ r ∈ opcodeRows, r.mnemonic = i.mnemonic ∧ r.selects (encode i) = true

theorem Encoding.cls : Encoding.Statement .cls :=
  ⟨⟨"CLS", 0x0000, 0xF00F⟩, by decide, rfl, by decide⟩
theorem Encoding.ret : Encoding.Statement .ret :=
  ⟨⟨"RET", 0x000E, 0xF00F⟩, by decide, rfl, by decide⟩
theorem Encoding.jp (nnn : Addr12) : Encoding.Statement (.jp nnn) :=
  ⟨⟨"JP_nnn", 0x1000, 0xF000⟩, by decide, rfl, by simp [OpcodeRow.selects, encode, and_F000]⟩
theorem Encoding.call (nnn : Addr12) : Encoding.Statement (.call nnn) :=
  ⟨⟨"CALL_nnn", 0x2000, 0xF000⟩, by decide, rfl, by simp [OpcodeRow.selects, encode, and_F000]⟩
theorem Encoding.seImm (x : Reg) (kk : Byte) : Encoding.Statement (.seImm x kk) :=
  ⟨⟨"SE_Vx_kk", 0x3000, 0xF000⟩, by decide, rfl, by simp [OpcodeRow.selects, encode, and_F000]⟩
theorem Encoding.sneImm (x : Reg) (kk : Byte) : Encoding.Statement (.sneImm x kk) :=
  ⟨⟨"SNE_Vx_kk", 0x4000, 0xF000⟩, by decide, rfl, by simp [OpcodeRow.selects, encode, and_F000]⟩
theorem Encoding.seReg (x y : Reg) : Encoding.Statement (.seReg x y) :=
  ⟨⟨"SE_Vx_Vy", 0x5000, 0xF000⟩, by decide, rfl, by simp [OpcodeRow.selects, encode, and_F000]⟩
theorem Encoding.ldImm (x : Reg) (kk : Byte) : Encoding.Statement (.ldImm x kk) :=
  ⟨⟨"LD_Vx_kk", 0x6000, 0xF000⟩, by decide, rfl, by simp [OpcodeRow.selects, encode, and_F000]⟩
theorem Encoding.addImm (x : Reg) (kk : Byte) : Encoding.Statement (.addImm x kk) :=
  ⟨⟨"ADD_Vx_kk", 0x7000, 0xF000⟩, by decide, rfl, by simp [OpcodeRow.selects, encode, and_F000]⟩
theorem Encoding.ldReg (x y : Reg) : Encoding.Statement (.ldReg x y) :=
  ⟨⟨"LD_Vx_Vy", 0x8000, 0xF00F⟩, by decide, rfl, by simp [OpcodeRow.selects, encode, and_F00F]⟩
theorem Encoding.orReg (x y : Reg) : Encoding.Statement (.orReg x y) :=
  ⟨⟨"OR_Vx_Vy", 0x8001, 0xF00F⟩, by decide, rfl, by simp [OpcodeRow.selects, encode, and_F00F]⟩
theorem Encoding.andReg (x y : Reg) : Encoding.Statement (.andReg x y) :=
  ⟨⟨"AND_Vx_Vy", 0x8002, 0xF00F⟩, by decide, rfl, by simp [OpcodeRow.selects, encode, and_F00F]⟩
theorem Encoding.xorReg (x y : Reg) : Encoding.Statement (.xorReg x y) :=
  ⟨⟨"XOR_Vx_Vy", 0x8003, 0xF00F⟩, by decide, rfl, by simp [OpcodeRow.selects, encode, and_F00F]⟩
theorem Encoding.addReg (x y : Reg) : Encoding.Statement (.addReg x y) :=
  ⟨⟨"ADD_Vx_Vy", 0x8004, 0xF00F⟩, by decide, rfl, by simp [OpcodeRow.selects, encode, and_F00F]⟩
theorem Encoding.subReg (x y : Reg) : Encoding.Statement (.subReg x y) :=
  ⟨⟨"SUB_Vx_Vy", 0x8005, 0xF00F⟩, by decide, rfl, by simp [OpcodeRow.selects, encode, and_F00F]⟩
theorem Encoding.shr (x : Reg) : Encoding.Statement (.shr x) :=
  ⟨⟨"SHR_Vx", 0x8006, 0xF00F⟩, by decide, rfl, by simp [OpcodeRow.selects, encode, and_F00F]⟩
theorem Encoding.subnReg (x y : Reg) : Encoding.Statement (.subnReg x y) :=
  ⟨⟨"SUBN_Vx_Vy", 0x8007, 0xF00F⟩, by decide, rfl, by simp [OpcodeRow.selects, encode, and_F00F]⟩
theorem Encoding.shl (x : Reg) : Encoding.Statement (.shl x) :=
  ⟨⟨"SHL_Vx", 0x800E, 0xF00F⟩, by decide, rfl, by simp [OpcodeRow.selects, encode, and_F00F]⟩
theorem Encoding.sneReg (x y : Reg) : Encoding.Statement (.sneReg x y) :=
  ⟨⟨"SNE_Vx_Vy", 0x9000, 0xF000⟩, by decide, rfl, by simp [OpcodeRow.selects, encode, and_F000]⟩
theorem Encoding.ldI (nnn : Addr12) : Encoding.Statement (.ldI nnn) :=
  ⟨⟨"LD_I_nnn", 0xA000, 0xF000⟩, by decide, rfl, by simp [OpcodeRow.selects, encode, and_F000]⟩
theorem Encoding.jpV0 (nnn : Addr12) : Encoding.Statement (.jpV0 nnn) :=
  ⟨⟨"JP_V0_nnn", 0xB000, 0xF000⟩, by decide, rfl, by simp [OpcodeRow.selects, encode, and_F000]⟩
theorem Encoding.rnd (x : Reg) (kk : Byte) : Encoding.Statement (.rnd x kk) :=
  ⟨⟨"RND_Vx_kk", 0xC000, 0xF000⟩, by decide, rfl, by simp [OpcodeRow.selects, encode, and_F000]⟩
theorem Encoding.drw (x y : Reg) (n : RowCount) : Encoding.Statement (.drw x y n) :=
  ⟨⟨"DRW_Vx_Vy_n", 0xD000, 0xF000⟩, by decide, rfl, by simp [OpcodeRow.selects, encode, and_F000]⟩
theorem Encoding.skp (x : Reg) : Encoding.Statement (.skp x) :=
  ⟨⟨"SKP_Vx", 0xE09E, 0xF0FF⟩, by decide, rfl, by simp [OpcodeRow.selects, encode, and_F0FF]⟩
theorem Encoding.sknp (x : Reg) : Encoding.Statement (.sknp x) :=
  ⟨⟨"SKNP_Vx", 0xE0A1, 0xF0FF⟩, by decide, rfl, by simp [OpcodeRow.selects, encode, and_F0FF]⟩
theorem Encoding.ldVxDt (x : Reg) : Encoding.Statement (.ldVxDt x) :=
  ⟨⟨"LD_Vx_DT", 0xF007, 0xF0FF⟩, by decide, rfl, by simp [OpcodeRow.selects, encode, and_F0FF]⟩
theorem Encoding.ldVxK (x : Reg) : Encoding.Statement (.ldVxK x) :=
  ⟨⟨"LD_Vx_K", 0xF00A, 0xF0FF⟩, by decide, rfl, by simp [OpcodeRow.selects, encode, and_F0FF]⟩
theorem Encoding.ldDtVx (x : Reg) : Encoding.Statement (.ldDtVx x) :=
  ⟨⟨"LD_DT_Vx", 0xF015, 0xF0FF⟩, by decide, rfl, by simp [OpcodeRow.selects, encode, and_F0FF]⟩
theorem Encoding.ldStVx (x : Reg) : Encoding.Statement (.ldStVx x) :=
  ⟨⟨"LD_ST_Vx", 0xF018, 0xF0FF⟩, by decide, rfl, by simp [OpcodeRow.selects, encode, and_F0FF]⟩
theorem Encoding.addIVx (x : Reg) : Encoding.Statement (.addIVx x) :=
  ⟨⟨"ADD_I_Vx", 0xF01E, 0xF0FF⟩, by decide, rfl, by simp [OpcodeRow.selects, encode, and_F0FF]⟩
theorem Encoding.ldFVx (x : Reg) : Encoding.Statement (.ldFVx x) :=
  ⟨⟨"LD_F_Vx", 0xF029, 0xF0FF⟩, by decide, rfl, by simp [OpcodeRow.selects, encode, and_F0FF]⟩
theorem Encoding.ldBVx (x : Reg) : Encoding.Statement (.ldBVx x) :=
  ⟨⟨"LD_B_Vx", 0xF033, 0xF0FF⟩, by decide, rfl, by simp [OpcodeRow.selects, encode, and_F0FF]⟩
theorem Encoding.stRegs (x : Reg) : Encoding.Statement (.stRegs x) :=
  ⟨⟨"LD__I__Vx", 0xF055, 0xF0FF⟩, by decide, rfl, by simp [OpcodeRow.selects, encode, and_F0FF]⟩
theorem Encoding.ldRegs (x : Reg) : Encoding.Statement (.ldRegs x) :=
  ⟨⟨"LD_Vx__I", 0xF065, 0xF0FF⟩, by decide, rfl, by simp [OpcodeRow.selects, encode, and_F0FF]⟩

end Sys2Proof.Laws
end

