-- ==== Sys2Proof/Laws/Frames.lean ====
section
/-!
SUPPORT. The frames of the shared operations that choose between updates (which fields they leave alone), and the
small lemmas of the terms of Safety.lean.
-/

namespace Sys2Proof.Machine

variable (s : State)

/-! ### writeResultAndFlag -/

@[simp] theorem writeResultAndFlag_mem (x : Reg) (r f : Byte) : (writeResultAndFlag x r f s).mem = s.mem := by rw [writeResultAndFlag_eq]
@[simp] theorem writeResultAndFlag_pc (x : Reg) (r f : Byte) : (writeResultAndFlag x r f s).pc = s.pc := by rw [writeResultAndFlag_eq]
@[simp] theorem writeResultAndFlag_i (x : Reg) (r f : Byte) : (writeResultAndFlag x r f s).i = s.i := by rw [writeResultAndFlag_eq]
@[simp] theorem writeResultAndFlag_sp (x : Reg) (r f : Byte) : (writeResultAndFlag x r f s).sp = s.sp := by rw [writeResultAndFlag_eq]
@[simp] theorem writeResultAndFlag_stack (x : Reg) (r f : Byte) : (writeResultAndFlag x r f s).stack = s.stack := by rw [writeResultAndFlag_eq]
@[simp] theorem writeResultAndFlag_dt (x : Reg) (r f : Byte) : (writeResultAndFlag x r f s).dt = s.dt := by rw [writeResultAndFlag_eq]
@[simp] theorem writeResultAndFlag_st (x : Reg) (r f : Byte) : (writeResultAndFlag x r f s).st = s.st := by rw [writeResultAndFlag_eq]
@[simp] theorem writeResultAndFlag_fb (x : Reg) (r f : Byte) : (writeResultAndFlag x r f s).fb = s.fb := by rw [writeResultAndFlag_eq]
@[simp] theorem writeResultAndFlag_keys (x : Reg) (r f : Byte) : (writeResultAndFlag x r f s).keys = s.keys := by rw [writeResultAndFlag_eq]
@[simp] theorem writeResultAndFlag_w (x : Reg) (r f : Byte) : (writeResultAndFlag x r f s).w = s.w := by rw [writeResultAndFlag_eq]
@[simp] theorem writeResultAndFlag_dirty (x : Reg) (r f : Byte) : (writeResultAndFlag x r f s).dirty = s.dirty := by rw [writeResultAndFlag_eq]
@[simp] theorem writeResultAndFlag_halted (x : Reg) (r f : Byte) : (writeResultAndFlag x r f s).halted = s.halted := by rw [writeResultAndFlag_eq]
@[simp] theorem writeResultAndFlag_err (x : Reg) (r f : Byte) : (writeResultAndFlag x r f s).err = s.err := by rw [writeResultAndFlag_eq]
@[simp] theorem writeResultAndFlag_beep (x : Reg) (r f : Byte) : (writeResultAndFlag x r f s).beep = s.beep := by rw [writeResultAndFlag_eq]
@[simp] theorem writeResultAndFlag_present (x : Reg) (r f : Byte) : (writeResultAndFlag x r f s).present = s.present := by rw [writeResultAndFlag_eq]
@[simp] theorem writeResultAndFlag_rndIn (x : Reg) (r f : Byte) : (writeResultAndFlag x r f s).rndIn = s.rndIn := by rw [writeResultAndFlag_eq]
@[simp] theorem writeResultAndFlag_inputs (x : Reg) (r f : Byte) : (writeResultAndFlag x r f s).inputs = s.inputs := by rw [writeResultAndFlag_eq]
@[simp] theorem writeResultAndFlag_config (x : Reg) (r f : Byte) : (writeResultAndFlag x r f s).config = s.config := by rw [writeResultAndFlag_eq]
@[simp] theorem writeResultAndFlag_draws (x : Reg) (r f : Byte) : (writeResultAndFlag x r f s).draws = s.draws := by rw [writeResultAndFlag_eq]

/-! ### memWrite -/

@[simp] theorem memWrite_v (a : Nat) (b : Byte) : (memWrite a b s).v = s.v := by rw [memWrite_eq]
@[simp] theorem memWrite_pc (a : Nat) (b : Byte) : (memWrite a b s).pc = s.pc := by rw [memWrite_eq]
@[simp] theorem memWrite_i (a : Nat) (b : Byte) : (memWrite a b s).i = s.i := by rw [memWrite_eq]
@[simp] theorem memWrite_sp (a : Nat) (b : Byte) : (memWrite a b s).sp = s.sp := by rw [memWrite_eq]
@[simp] theorem memWrite_stack (a : Nat) (b : Byte) : (memWrite a b s).stack = s.stack := by rw [memWrite_eq]
@[simp] theorem memWrite_dt (a : Nat) (b : Byte) : (memWrite a b s).dt = s.dt := by rw [memWrite_eq]
@[simp] theorem memWrite_st (a : Nat) (b : Byte) : (memWrite a b s).st = s.st := by rw [memWrite_eq]
@[simp] theorem memWrite_fb (a : Nat) (b : Byte) : (memWrite a b s).fb = s.fb := by rw [memWrite_eq]
@[simp] theorem memWrite_keys (a : Nat) (b : Byte) : (memWrite a b s).keys = s.keys := by rw [memWrite_eq]
@[simp] theorem memWrite_w (a : Nat) (b : Byte) : (memWrite a b s).w = s.w := by rw [memWrite_eq]
@[simp] theorem memWrite_dirty (a : Nat) (b : Byte) : (memWrite a b s).dirty = s.dirty := by rw [memWrite_eq]
@[simp] theorem memWrite_halted (a : Nat) (b : Byte) : (memWrite a b s).halted = s.halted := by rw [memWrite_eq]
@[simp] theorem memWrite_err (a : Nat) (b : Byte) : (memWrite a b s).err = s.err := by rw [memWrite_eq]
@[simp] theorem memWrite_beep (a : Nat) (b : Byte) : (memWrite a b s).beep = s.beep := by rw [memWrite_eq]
@[simp] theorem memWrite_present (a : Nat) (b : Byte) : (memWrite a b s).present = s.present := by rw [memWrite_eq]
@[simp] theorem memWrite_rndIn (a : Nat) (b : Byte) : (memWrite a b s).rndIn = s.rndIn := by rw [memWrite_eq]
@[simp] theorem memWrite_inputs (a : Nat) (b : Byte) : (memWrite a b s).inputs = s.inputs := by rw [memWrite_eq]
@[simp] theorem memWrite_draws (a : Nat) (b : Byte) : (memWrite a b s).draws = s.draws := by rw [memWrite_eq]

/-! ### memWriteList -/

@[simp] theorem memWriteList_v (a : Nat) (bs : List Byte) : (memWriteList a bs s).v = s.v := by rw [memWriteList_eq]
@[simp] theorem memWriteList_pc (a : Nat) (bs : List Byte) : (memWriteList a bs s).pc = s.pc := by rw [memWriteList_eq]
@[simp] theorem memWriteList_i (a : Nat) (bs : List Byte) : (memWriteList a bs s).i = s.i := by rw [memWriteList_eq]
@[simp] theorem memWriteList_sp (a : Nat) (bs : List Byte) : (memWriteList a bs s).sp = s.sp := by rw [memWriteList_eq]
@[simp] theorem memWriteList_stack (a : Nat) (bs : List Byte) : (memWriteList a bs s).stack = s.stack := by rw [memWriteList_eq]
@[simp] theorem memWriteList_dt (a : Nat) (bs : List Byte) : (memWriteList a bs s).dt = s.dt := by rw [memWriteList_eq]
@[simp] theorem memWriteList_st (a : Nat) (bs : List Byte) : (memWriteList a bs s).st = s.st := by rw [memWriteList_eq]
@[simp] theorem memWriteList_fb (a : Nat) (bs : List Byte) : (memWriteList a bs s).fb = s.fb := by rw [memWriteList_eq]
@[simp] theorem memWriteList_keys (a : Nat) (bs : List Byte) : (memWriteList a bs s).keys = s.keys := by rw [memWriteList_eq]
@[simp] theorem memWriteList_w (a : Nat) (bs : List Byte) : (memWriteList a bs s).w = s.w := by rw [memWriteList_eq]
@[simp] theorem memWriteList_dirty (a : Nat) (bs : List Byte) : (memWriteList a bs s).dirty = s.dirty := by rw [memWriteList_eq]
@[simp] theorem memWriteList_halted (a : Nat) (bs : List Byte) : (memWriteList a bs s).halted = s.halted := by rw [memWriteList_eq]
@[simp] theorem memWriteList_err (a : Nat) (bs : List Byte) : (memWriteList a bs s).err = s.err := by rw [memWriteList_eq]
@[simp] theorem memWriteList_beep (a : Nat) (bs : List Byte) : (memWriteList a bs s).beep = s.beep := by rw [memWriteList_eq]
@[simp] theorem memWriteList_present (a : Nat) (bs : List Byte) : (memWriteList a bs s).present = s.present := by rw [memWriteList_eq]
@[simp] theorem memWriteList_rndIn (a : Nat) (bs : List Byte) : (memWriteList a bs s).rndIn = s.rndIn := by rw [memWriteList_eq]
@[simp] theorem memWriteList_inputs (a : Nat) (bs : List Byte) : (memWriteList a bs s).inputs = s.inputs := by rw [memWriteList_eq]
@[simp] theorem memWriteList_config (a : Nat) (bs : List Byte) : (memWriteList a bs s).config = s.config := by rw [memWriteList_eq]
@[simp] theorem memWriteList_draws (a : Nat) (bs : List Byte) : (memWriteList a bs s).draws = s.draws := by rw [memWriteList_eq]

/-! ### loadRegs -/

@[simp] theorem loadRegs_mem (a : Nat) (x : Reg) : (loadRegs a x s).mem = s.mem := by rw [loadRegs_eq]
@[simp] theorem loadRegs_pc (a : Nat) (x : Reg) : (loadRegs a x s).pc = s.pc := by rw [loadRegs_eq]
@[simp] theorem loadRegs_i (a : Nat) (x : Reg) : (loadRegs a x s).i = s.i := by rw [loadRegs_eq]
@[simp] theorem loadRegs_sp (a : Nat) (x : Reg) : (loadRegs a x s).sp = s.sp := by rw [loadRegs_eq]
@[simp] theorem loadRegs_stack (a : Nat) (x : Reg) : (loadRegs a x s).stack = s.stack := by rw [loadRegs_eq]
@[simp] theorem loadRegs_dt (a : Nat) (x : Reg) : (loadRegs a x s).dt = s.dt := by rw [loadRegs_eq]
@[simp] theorem loadRegs_st (a : Nat) (x : Reg) : (loadRegs a x s).st = s.st := by rw [loadRegs_eq]
@[simp] theorem loadRegs_fb (a : Nat) (x : Reg) : (loadRegs a x s).fb = s.fb := by rw [loadRegs_eq]
@[simp] theorem loadRegs_keys (a : Nat) (x : Reg) : (loadRegs a x s).keys = s.keys := by rw [loadRegs_eq]
@[simp] theorem loadRegs_w (a : Nat) (x : Reg) : (loadRegs a x s).w = s.w := by rw [loadRegs_eq]
@[simp] theorem loadRegs_dirty (a : Nat) (x : Reg) : (loadRegs a x s).dirty = s.dirty := by rw [loadRegs_eq]
@[simp] theorem loadRegs_halted (a : Nat) (x : Reg) : (loadRegs a x s).halted = s.halted := by rw [loadRegs_eq]
@[simp] theorem loadRegs_err (a : Nat) (x : Reg) : (loadRegs a x s).err = s.err := by rw [loadRegs_eq]
@[simp] theorem loadRegs_beep (a : Nat) (x : Reg) : (loadRegs a x s).beep = s.beep := by rw [loadRegs_eq]
@[simp] theorem loadRegs_present (a : Nat) (x : Reg) : (loadRegs a x s).present = s.present := by rw [loadRegs_eq]
@[simp] theorem loadRegs_rndIn (a : Nat) (x : Reg) : (loadRegs a x s).rndIn = s.rndIn := by rw [loadRegs_eq]
@[simp] theorem loadRegs_inputs (a : Nat) (x : Reg) : (loadRegs a x s).inputs = s.inputs := by rw [loadRegs_eq]
@[simp] theorem loadRegs_config (a : Nat) (x : Reg) : (loadRegs a x s).config = s.config := by rw [loadRegs_eq]
@[simp] theorem loadRegs_draws (a : Nat) (x : Reg) : (loadRegs a x s).draws = s.draws := by rw [loadRegs_eq]

/-! ### countDraw -/

@[simp] theorem countDraw_mem : (countDraw s).mem = s.mem := by rw [countDraw_eq]
@[simp] theorem countDraw_v : (countDraw s).v = s.v := by rw [countDraw_eq]
@[simp] theorem countDraw_pc : (countDraw s).pc = s.pc := by rw [countDraw_eq]
@[simp] theorem countDraw_i : (countDraw s).i = s.i := by rw [countDraw_eq]
@[simp] theorem countDraw_sp : (countDraw s).sp = s.sp := by rw [countDraw_eq]
@[simp] theorem countDraw_stack : (countDraw s).stack = s.stack := by rw [countDraw_eq]
@[simp] theorem countDraw_dt : (countDraw s).dt = s.dt := by rw [countDraw_eq]
@[simp] theorem countDraw_st : (countDraw s).st = s.st := by rw [countDraw_eq]
@[simp] theorem countDraw_fb : (countDraw s).fb = s.fb := by rw [countDraw_eq]
@[simp] theorem countDraw_keys : (countDraw s).keys = s.keys := by rw [countDraw_eq]
@[simp] theorem countDraw_w : (countDraw s).w = s.w := by rw [countDraw_eq]
@[simp] theorem countDraw_dirty : (countDraw s).dirty = s.dirty := by rw [countDraw_eq]
@[simp] theorem countDraw_halted : (countDraw s).halted = s.halted := by rw [countDraw_eq]
@[simp] theorem countDraw_err : (countDraw s).err = s.err := by rw [countDraw_eq]
@[simp] theorem countDraw_beep : (countDraw s).beep = s.beep := by rw [countDraw_eq]
@[simp] theorem countDraw_present : (countDraw s).present = s.present := by rw [countDraw_eq]
@[simp] theorem countDraw_rndIn : (countDraw s).rndIn = s.rndIn := by rw [countDraw_eq]
@[simp] theorem countDraw_inputs : (countDraw s).inputs = s.inputs := by rw [countDraw_eq]
@[simp] theorem countDraw_config : (countDraw s).config = s.config := by rw [countDraw_eq]

/-! ### skipIf -/

@[simp] theorem skipIf_mem (c : Bool) : (skipIf c s).mem = s.mem := by rw [skipIf_eq, advance_mem]
@[simp] theorem skipIf_v (c : Bool) : (skipIf c s).v = s.v := by rw [skipIf_eq, advance_v]
@[simp] theorem skipIf_i (c : Bool) : (skipIf c s).i = s.i := by rw [skipIf_eq, advance_i]
@[simp] theorem skipIf_sp (c : Bool) : (skipIf c s).sp = s.sp := by rw [skipIf_eq, advance_sp]
@[simp] theorem skipIf_stack (c : Bool) : (skipIf c s).stack = s.stack := by rw [skipIf_eq, advance_stack]
@[simp] theorem skipIf_dt (c : Bool) : (skipIf c s).dt = s.dt := by rw [skipIf_eq, advance_dt]
@[simp] theorem skipIf_st (c : Bool) : (skipIf c s).st = s.st := by rw [skipIf_eq, advance_st]
@[simp] theorem skipIf_fb (c : Bool) : (skipIf c s).fb = s.fb := by rw [skipIf_eq, advance_fb]
@[simp] theorem skipIf_keys (c : Bool) : (skipIf c s).keys = s.keys := by rw [skipIf_eq, advance_keys]
@[simp] theorem skipIf_w (c : Bool) : (skipIf c s).w = s.w := by rw [skipIf_eq, advance_w]
@[simp] theorem skipIf_dirty (c : Bool) : (skipIf c s).dirty = s.dirty := by rw [skipIf_eq, advance_dirty]
@[simp] theorem skipIf_halted (c : Bool) : (skipIf c s).halted = s.halted := by rw [skipIf_eq, advance_halted]
@[simp] theorem skipIf_err (c : Bool) : (skipIf c s).err = s.err := by rw [skipIf_eq, advance_err]
@[simp] theorem skipIf_beep (c : Bool) : (skipIf c s).beep = s.beep := by rw [skipIf_eq, advance_beep]
@[simp] theorem skipIf_present (c : Bool) : (skipIf c s).present = s.present := by rw [skipIf_eq, advance_present]
@[simp] theorem skipIf_rndIn (c : Bool) : (skipIf c s).rndIn = s.rndIn := by rw [skipIf_eq, advance_rndIn]
@[simp] theorem skipIf_inputs (c : Bool) : (skipIf c s).inputs = s.inputs := by rw [skipIf_eq, advance_inputs]
@[simp] theorem skipIf_config (c : Bool) : (skipIf c s).config = s.config := by rw [skipIf_eq, advance_config]
@[simp] theorem skipIf_draws (c : Bool) : (skipIf c s).draws = s.draws := by rw [skipIf_eq, advance_draws]

/-! ### Registers read after an update that leaves the register file alone -/

@[simp] theorem readReg_raise (x : Reg) (c : ErrorCause) (u : Option Word) (k : Option Nat) : readReg x (raise c u k s) = readReg x s := readReg_congr (by simp) x
@[simp] theorem readReg_pushReturn (x : Reg) (p : Word) : readReg x (pushReturn p s) = readReg x s := readReg_congr (by simp) x
@[simp] theorem readReg_popReturn (x : Reg) : readReg x (popReturn s) = readReg x s := readReg_congr (by simp) x
@[simp] theorem readReg_writeDT (x : Reg) (b : Byte) : readReg x (writeDT b s) = readReg x s := readReg_congr (by simp) x
@[simp] theorem readReg_writeST (x : Reg) (b : Byte) : readReg x (writeST b s) = readReg x s := readReg_congr (by simp) x
@[simp] theorem readReg_memWriteList (x : Reg) (a : Nat) (bs : List Byte) : readReg x (memWriteList a bs s) = readReg x s := readReg_congr (by simp) x
@[simp] theorem readReg_countDraw (x : Reg) : readReg x (countDraw s) = readReg x s := readReg_congr (by simp) x
@[simp] theorem readReg_skipIf (x : Reg) (c : Bool) : readReg x (skipIf c s) = readReg x s := readReg_congr (by simp) x
@[simp] theorem readReg_timerStep (x : Reg) : readReg x (timerStep s) = readReg x s := readReg_congr (by simp) x
@[simp] theorem readReg_presentStep (x : Reg) : readReg x (presentStep s) = readReg x s := readReg_congr (by simp) x
@[simp] theorem readReg_quiet (x : Reg) : readReg x (quiet s) = readReg x s := readReg_congr (by simp) x
@[simp] theorem readReg_executeState (x : Reg) (w : Word) : readReg x (executeState w s) = readReg x s :=
  readReg_snapshot s x

/-! ### The state in which a cycle's execute step starts -/

@[simp] theorem executeState_mem (w : Word) : (executeState w s).mem = s.mem := snapshot_mem s
@[simp] theorem executeState_v (w : Word) : (executeState w s).v = s.v := snapshot_v s
@[simp] theorem executeState_pc (w : Word) : (executeState w s).pc = s.pc := snapshot_pc s
@[simp] theorem executeState_i (w : Word) : (executeState w s).i = s.i := snapshot_i s
@[simp] theorem executeState_sp (w : Word) : (executeState w s).sp = s.sp := snapshot_sp s
@[simp] theorem executeState_stack (w : Word) : (executeState w s).stack = s.stack := snapshot_stack s
@[simp] theorem executeState_dt (w : Word) : (executeState w s).dt = s.dt := snapshot_dt s
@[simp] theorem executeState_st (w : Word) : (executeState w s).st = s.st := snapshot_st s
@[simp] theorem executeState_fb (w : Word) : (executeState w s).fb = s.fb := snapshot_fb s
@[simp] theorem executeState_dirty (w : Word) : (executeState w s).dirty = s.dirty := snapshot_dirty s
@[simp] theorem executeState_halted (w : Word) : (executeState w s).halted = s.halted := snapshot_halted s
@[simp] theorem executeState_err (w : Word) : (executeState w s).err = s.err := snapshot_err s
@[simp] theorem executeState_config (w : Word) : (executeState w s).config = s.config := snapshot_config s
@[simp] theorem executeState_w (w : Word) : (executeState w s).w = w := rfl
@[simp] theorem executeState_keys (w : Word) : (executeState w s).keys = (snapshot s).keys := rfl
@[simp] theorem executeState_beep (w : Word) : (executeState w s).beep = false := rfl
@[simp] theorem executeState_present (w : Word) : (executeState w s).present = false := rfl

/-! ### Encodings: a row of the opcode map from the keys of the word -/

theorem selects_F000 {v : Word} {f : Word → Instr}
    (h : ∀ w, highNibble w = v.extractLsb' 12 4 → decodeWord w = some (f w)) : Selects 0xF000 v f :=
  fun w hw => h w (keys_F000 hw)

theorem selects_F00F {v : Word} {f : Word → Instr}
    (h : ∀ w, highNibble w = v.extractLsb' 12 4 → lowNibble w = v.extractLsb' 0 4 → decodeWord w = some (f w)) :
    Selects 0xF00F v f := fun w hw => h w (keys_F00F hw).1 (keys_F00F hw).2

theorem selects_F0FF {v : Word} {f : Word → Instr}
    (h : ∀ w, highNibble w = v.extractLsb' 12 4 → lowByte w = v.extractLsb' 0 8 → decodeWord w = some (f w)) :
    Selects 0xF0FF v f := fun w hw => h w (keys_F0FF hw).1 (keys_F0FF hw).2

/-! ### Shared conclusions of the meanings -/

/-- A skip on a Boolean that says whether the condition holds. -/
theorem skipIf_skipsWhen {c : Bool} {p : Prop} (hc : c = true ↔ p) : SkipsWhen p s (skipIf c s) := by
  rw [skipIf_eq]
  refine ⟨fun h => ?_, fun h => ?_, fun q hq => ?_⟩
  · simp [hc.2 h, PcPlus, BitVec.toNat_add]
  · have hf : c = false := by cases c <;> simp_all
    simp [hf, PcPlus, BitVec.toNat_add]
  · cases q <;> simp_all [Unchanged]

/-- Raising an error of the instruction changes the status alone. -/
theorem raiseAt_raised (c : ErrorCause) (k : Option Nat) : Raised c k s (raiseAt c k s) := by
  refine ⟨rfl, rfl, fun q hq => ?_⟩
  cases q <;> simp_all [Unchanged]

/-- The ordinary advance. -/
theorem next2_pcPlus {s t : State} (h : t.pc = s.pc) : PcPlus 2 s (next2 t) := by
  simp [PcPlus, h, BitVec.toNat_add]

/-- A plain load of a register. -/
theorem writeReg_loadsReg (x : Reg) (b : Byte) : LoadsReg x b.toNat s (next2 (writeReg x b s)) := by
  refine ⟨by simp, fun r hr => ?_, next2_pcPlus rfl, fun q hq => ?_⟩
  · rw [List.mem_singleton] at hr
    simp [hr]
  · cases q <;> simp_all [Unchanged]

/-- The result and the flag of an ALU instruction. -/
theorem writeResultAndFlag_writes (x : Reg) (r f : Byte) :
    WritesResultAndFlag x r.toNat f.toNat s (next2 (writeResultAndFlag x r f s)) := by
  refine ⟨fun hx => ?_, fun hx ho => ?_, fun hx ho => ?_, fun q hq => ?_, next2_pcPlus (by simp), fun q hq => ?_⟩
  · constructor <;> · rw [readReg_next2, readReg_writeResultAndFlag]; split <;> simp [hx, Ne.symm hx]
  · simp [readReg_writeResultAndFlag, ho]
  · simp [readReg_writeResultAndFlag, ho, hx]
  · rw [readReg_next2, readReg_writeResultAndFlag]
    simp only [List.mem_cons, List.not_mem_nil, or_false, not_or] at hq
    split <;> simp [hq]
  · cases q <;> simp_all [Unchanged]

/-- When a block at I is refused (R61). -/
theorem blockOutside_iff {n : Nat} {s : State} :
    BlockOutside n s ↔
      firstOutOfRange s.config.addrPolicy (blockAddrs s.i n) = some (max s.i.toNat 0x1000) := by
  unfold BlockOutside
  cases h : s.config.addrPolicy with
  | mask12 => simp
  | fault =>
    rw [firstOutOfRange_block]
    by_cases hn : n = 0 ∨ s.i.toNat + n ≤ memSize
    · rw [if_pos hn]
      simp only [memSize] at hn
      simp only [true_and, reduceCtorEq, iff_false]
      omega
    · rw [if_neg hn]
      simp only [memSize] at hn ⊢
      simp only [true_and, iff_true]
      omega

theorem not_blockOutside_iff {n : Nat} {s : State} :
    ¬ BlockOutside n s ↔ firstOutOfRange s.config.addrPolicy (blockAddrs s.i n) = none := by
  rw [blockOutside_iff]
  cases h : s.config.addrPolicy with
  | mask12 => simp
  | fault =>
    rw [firstOutOfRange_block]
    split <;> simp [memSize]

/-- Every byte of an admitted block has an address. -/
theorem checkAddr_of_not_blockOutside {n j : Nat} {s : State} (h : ¬ BlockOutside n s) (hj : j < n) :
    ∃ e, checkAddr s.config.addrPolicy (s.i.toNat + j) = some e := by
  rw [not_blockOutside_iff, firstOutOfRange_eq_none] at h
  exact Option.isSome_iff_exists.1 (h _ (mem_blockAddrs.2 ⟨j, hj, rfl⟩))

/-- An instruction on an admitted block runs its body. -/
theorem checkAll_of_not_blockOutside {n : Nat} {body : State → State} {s : State} (h : ¬ BlockOutside n s) :
    checkAll (blockAddrs s.i n) body s = body s := checkAll_ok (not_blockOutside_iff.1 h)

/-- An instruction on a refused block raises MemoryOutOfRange naming the lowest address outside. -/
theorem checkAll_of_blockOutside {n : Nat} {body : State → State} {s : State} (h : BlockOutside n s) :
    checkAll (blockAddrs s.i n) body s = raiseAt .memoryOutOfRange (some (max s.i.toNat 0x1000)) s :=
  checkAll_bad (blockOutside_iff.1 h)

/-- A block store at I. -/
theorem memWriteList_storesBlock {bs : List Byte} {s : State} (hm : s.mem.wf = true) (hl : bs.length ≤ memSize) :
    StoresBlock bs s (memWriteList s.i.toNat bs s) :=
  ⟨fun _ _ hj he => memWriteList_read_hit hm hl hj he, fun _ he => memWriteList_read_miss hm he⟩

/-- A fetch whose two addresses are admitted. -/
theorem fetch_of_checkAddr {s : State} {hi lo : Nat} (h1 : checkAddr s.config.addrPolicy s.pc.toNat = some hi)
    (h2 : checkAddr s.config.addrPolicy (s.pc.toNat + 1) = some lo) :
    fetch s = .ok (wordOfBytes (s.mem.read hi) (s.mem.read lo)) := by
  have hall : firstOutOfRange s.config.addrPolicy (fetchAddrs s) = none := by
    rw [firstOutOfRange_eq_none]
    intro a ha
    obtain ⟨j, hj, rfl⟩ := mem_blockAddrs.1 ha
    obtain rfl | rfl : j = 0 ∨ j = 1 := by omega
    · simp [h1]
    · simp [h2]
  simp [fetch, hall, memRead_eq h1, memRead_eq h2]

/-- The registers LD [I],Vx stores, as a list over the register indices. -/
theorem map_readReg_eq_regsUpTo (x : Reg) (s : State) :
    ((List.finRange 16).take (x.val + 1)).map (fun r => readReg r s) = regsUpTo x s := by
  apply List.ext_getElem
  · simp
  · intro j h1 h2
    simp [getElem_regsUpTo]

/-! ### The end of a cycle -/

/-- A cycle that raised an error ends where its instruction left the state (R110). -/
theorem finish_of_halted {s : State} (h : s.halted = true) : finish s = s := by simp [finish, h]

/-- Any other cycle runs the timer and present steps. -/
theorem finish_of_running {s : State} (h : s.halted = false) : finish s = presentStep (timerStep s) := by
  simp [finish, h]

/-- The timer step as numbers (R107). -/
theorem dec0_toNat (b : Byte) : (dec0 b).toNat = b.toNat - 1 := by
  revert b; decide

/-! ### DRW -/

/-- DRW on an admitted sprite. -/
theorem exec_drw_of_not_blockOutside {x y : Reg} {n : RowCount} {s : State} (h : ¬ BlockOutside n.val s) :
    exec (.drw x y n) s =
      .next (next2 (writeFb (drawAtRegs x y n s).1 (writeReg vf (boolByte (drawAtRegs x y n s).2) s))) := by
  simp only [exec, execDrw, spriteAddrs, checkAll_of_not_blockOutside h]

/-- The pixels of the grid that DRW's sprite covers. -/
theorem covers_iff_underSprite {x y : Reg} {n : RowCount} {s : State} {c r : Nat} (hc : c < 64) (hr : r < 32) :
    covers (memReadList s.i.toNat n.val s) (readReg x s).toNat (readReg y s).toNat c r = true ↔
      UnderSprite x y n s c r := by
  unfold covers UnderSprite
  simp only [Bool.and_eq_true, decide_eq_true_eq, spriteBit]
  by_cases h : r - (readReg y s).toNat < n.val
  · simp only [memReadList, List.getD_eq_getElem?_getD, List.getElem?_map, List.getElem?_range h, Option.map_some,
      Option.getD_some]
    constructor
    · rintro ⟨⟨_, _, h1, h2, h3⟩, h4⟩
      exact ⟨h1, h2, h3, by omega, h4⟩
    · rintro ⟨h1, h2, h3, _, h5⟩
      exact ⟨⟨hc, hr, h1, h2, h3⟩, h5⟩
  · rw [List.getD_eq_default _ _ (by simpa using h)]
    simp only [BitVec.ofNat_eq_ofNat, BitVec.getLsbD_zero, Bool.false_eq_true, and_false, false_iff]
    omega

end Sys2Proof.Machine
end

