-- ==== Sys2Proof/Laws/Ports.lean ====
section
/-!
SUPPORT. The host's moves: what a loaded image and a presented input leave alone, field by field, the memory after a
load, and each move on each kind of session.
-/

namespace Sys2Proof.Machine

variable (s : State)

/-! ### copyImage -/

@[simp] theorem copyImage_v (bs : List Byte) : (copyImage bs s).v = s.v := rfl
@[simp] theorem copyImage_pc (bs : List Byte) : (copyImage bs s).pc = s.pc := rfl
@[simp] theorem copyImage_i (bs : List Byte) : (copyImage bs s).i = s.i := rfl
@[simp] theorem copyImage_sp (bs : List Byte) : (copyImage bs s).sp = s.sp := rfl
@[simp] theorem copyImage_stack (bs : List Byte) : (copyImage bs s).stack = s.stack := rfl
@[simp] theorem copyImage_dt (bs : List Byte) : (copyImage bs s).dt = s.dt := rfl
@[simp] theorem copyImage_st (bs : List Byte) : (copyImage bs s).st = s.st := rfl
@[simp] theorem copyImage_fb (bs : List Byte) : (copyImage bs s).fb = s.fb := rfl
@[simp] theorem copyImage_keys (bs : List Byte) : (copyImage bs s).keys = s.keys := rfl
@[simp] theorem copyImage_w (bs : List Byte) : (copyImage bs s).w = s.w := rfl
@[simp] theorem copyImage_dirty (bs : List Byte) : (copyImage bs s).dirty = s.dirty := rfl
@[simp] theorem copyImage_halted (bs : List Byte) : (copyImage bs s).halted = s.halted := rfl
@[simp] theorem copyImage_err (bs : List Byte) : (copyImage bs s).err = s.err := rfl
@[simp] theorem copyImage_beep (bs : List Byte) : (copyImage bs s).beep = s.beep := rfl
@[simp] theorem copyImage_present (bs : List Byte) : (copyImage bs s).present = s.present := rfl
@[simp] theorem copyImage_rndIn (bs : List Byte) : (copyImage bs s).rndIn = s.rndIn := rfl
@[simp] theorem copyImage_inputs (bs : List Byte) : (copyImage bs s).inputs = s.inputs := rfl
@[simp] theorem copyImage_config (bs : List Byte) : (copyImage bs s).config = s.config := rfl
@[simp] theorem copyImage_draws (bs : List Byte) : (copyImage bs s).draws = s.draws := rfl

@[simp] theorem readReg_copyImage (x : Reg) (bs : List Byte) : readReg x (copyImage bs s) = readReg x s := rfl

variable {s}

/-- An image the port accepts ends inside memory. -/
theorem image_end {bs : List Byte} (h : bs.length ≤ romMax) : progBase + bs.length ≤ memSize := by
  simp only [romMax, progBase, memSize] at *
  omega

theorem copyImage_wf {bs : List Byte} (hm : s.mem.wf = true) (h : bs.length ≤ romMax) :
    (copyImage bs s).mem.wf = true := by
  unfold copyImage
  exact Memory.wf_writeList (image_end h) hm

/-- Byte j of a loaded image. -/
theorem copyImage_read_image {bs : List Byte} {j : Nat} (hm : s.mem.wf = true) (h : bs.length ≤ romMax)
    (hj : j < bs.length) : (copyImage bs s).mem.read (progBase + j) = bs[j] := by
  unfold copyImage
  rw [Memory.read_writeList (image_end h) hm, dif_pos ⟨Nat.le_add_right _ _, by rwa [Nat.add_sub_cancel_left]⟩]
  simp only [Nat.add_sub_cancel_left]

/-- Every byte outside a loaded image. -/
theorem copyImage_read_outside {bs : List Byte} {a : Nat} (hm : s.mem.wf = true) (h : bs.length ≤ romMax)
    (ha : a < progBase ∨ progBase + bs.length ≤ a) : (copyImage bs s).mem.read a = s.mem.read a := by
  unfold copyImage
  rw [Memory.read_writeList (image_end h) hm, dif_neg (by omega)]

variable (s)

/-! ### presentInput -/

@[simp] theorem presentInput_mem (p : PortInput) : (presentInput p s).mem = s.mem := rfl
@[simp] theorem presentInput_v (p : PortInput) : (presentInput p s).v = s.v := rfl
@[simp] theorem presentInput_pc (p : PortInput) : (presentInput p s).pc = s.pc := rfl
@[simp] theorem presentInput_i (p : PortInput) : (presentInput p s).i = s.i := rfl
@[simp] theorem presentInput_sp (p : PortInput) : (presentInput p s).sp = s.sp := rfl
@[simp] theorem presentInput_stack (p : PortInput) : (presentInput p s).stack = s.stack := rfl
@[simp] theorem presentInput_dt (p : PortInput) : (presentInput p s).dt = s.dt := rfl
@[simp] theorem presentInput_st (p : PortInput) : (presentInput p s).st = s.st := rfl
@[simp] theorem presentInput_fb (p : PortInput) : (presentInput p s).fb = s.fb := rfl
@[simp] theorem presentInput_keys (p : PortInput) : (presentInput p s).keys = s.keys := rfl
@[simp] theorem presentInput_w (p : PortInput) : (presentInput p s).w = s.w := rfl
@[simp] theorem presentInput_dirty (p : PortInput) : (presentInput p s).dirty = s.dirty := rfl
@[simp] theorem presentInput_halted (p : PortInput) : (presentInput p s).halted = s.halted := rfl
@[simp] theorem presentInput_err (p : PortInput) : (presentInput p s).err = s.err := rfl
@[simp] theorem presentInput_beep (p : PortInput) : (presentInput p s).beep = s.beep := rfl
@[simp] theorem presentInput_present (p : PortInput) : (presentInput p s).present = s.present := rfl
@[simp] theorem presentInput_rndIn (p : PortInput) : (presentInput p s).rndIn = s.rndIn := rfl
@[simp] theorem presentInput_inputs (p : PortInput) : (presentInput p s).inputs = [p] := rfl
@[simp] theorem presentInput_config (p : PortInput) : (presentInput p s).config = s.config := rfl
@[simp] theorem presentInput_draws (p : PortInput) : (presentInput p s).draws = s.draws := rfl

@[simp] theorem readReg_presentInput (x : Reg) (p : PortInput) : readReg x (presentInput p s) = readReg x s := rfl

/-! ### Each move on each kind of session -/

@[simp] theorem move_create (σ : Session) (c : Config) (font : Vector Byte 80) :
    σ.move (.create c font) = some (.created, .created (State.resetWith c font)) := rfl

@[simp] theorem move_load_absent (bs : List Byte) : Session.absent.move (.load bs) = none := rfl
@[simp] theorem move_load_created (bs : List Byte) : (Session.created s).move (.load bs) = some (loadPort bs s) := rfl
@[simp] theorem move_load_rejected (bs : List Byte) : (Session.rejected s).move (.load bs) = none := rfl
@[simp] theorem move_load_running (bs : List Byte) : (Session.running s).move (.load bs) = none := rfl

@[simp] theorem move_step_absent (p : PortInput) : Session.absent.move (.step p) = none := rfl
@[simp] theorem move_step_created (p : PortInput) : (Session.created s).move (.step p) = none := rfl
@[simp] theorem move_step_rejected (p : PortInput) : (Session.rejected s).move (.step p) = none := rfl
@[simp] theorem move_step_running (p : PortInput) :
    (Session.running s).move (.step p) = strobeReply (step (presentInput p s)) := rfl

@[simp] theorem move_observe_absent : Session.absent.move .observe = none := rfl
@[simp] theorem move_observe_created :
    (Session.created s).move .observe = some (.observed s.observation, .created s) := rfl
@[simp] theorem move_observe_rejected :
    (Session.rejected s).move .observe = some (.observed s.observation, .rejected s) := rfl
@[simp] theorem move_observe_running :
    (Session.running s).move .observe = some (.observed s.observation, .running s) := rfl

theorem loadPort_fits {bs : List Byte} (h : bs.length ≤ romMax) :
    loadPort bs s = (.loaded, .running (copyImage bs s)) := by simp [loadPort, imageFits, h]

theorem loadPort_tooLarge {bs : List Byte} (h : romMax < bs.length) :
    loadPort bs s = (.romTooLarge, .rejected s) := by simp [loadPort, imageFits, Nat.not_le.2 h]

/-- A strobe that is answered is a step. -/
theorem strobeReply_eq_some {x : Result} {r : HostReply} {n : Session} :
    strobeReply x = some (r, n) ↔ ∃ t, x = .next t ∧ r = .stepped t.hostView ∧ n = .running t := by
  cases x with
  | next t =>
    constructor
    · intro h
      injection h with h
      injection h with h1 h2
      exact ⟨t, rfl, h1.symm, h2.symm⟩
    · rintro ⟨u, h, rfl, rfl⟩
      injection h with h
      subst h
      rfl
  | fault c => cases c
  | refused c => simp [strobeReply]

end Sys2Proof.Machine
end

