-- ==== Sys2Proof/Tests/Slice0.lean ====
section
/-!
SUPPORT. The model's own tests.  Expected results come from spec 95_test_vectors.md (its row or example is named) or
from the encodings of 30_encoding.md R72, R74; each theorem `witness_<Name>` is a concrete input that meets the
hypotheses of `Obligations.<Name>`, one per clause.
-/

namespace Sys2Proof.Tests

open Sys2Proof Sys2Proof.Machine

/-! ### Helpers -/

/-- The state a step answers. -/
def nextOf : Result → Option State
  | .next t    => some t
  | .fault _   => none
  | .refused _ => none

/-- The start state of 95_test_vectors.md part 2: reset, the word at 0x300, PC = 0x300, keys and random byte 0. -/
def at300 (w : Word) : State := placeWord w { State.reset with pc := 0x300, inputs := [⟨0, 0⟩] }

/-- What `f` gives after one cycle. -/
def sees {α : Type} (f : State → α) (s : State) : Option α := (nextOf (step s)).map f

/-- PC after one cycle. -/
def pcAfter (s : State) : Option Word := sees State.pc s

/-- V[x] and VF after one cycle. -/
def regAfter (x : Reg) (s : State) : Option (Byte × Byte) := sees (fun t => (readReg x t, readReg vf t)) s

/-- The error of a cycle that halts: code, name and arg, with the PC of the record. -/
def haltAfter (s : State) : Option (Option (Nat × String × Option Nat × Word)) :=
  sees (fun t => t.err.map (fun e => (e.cause.code, e.cause.name, e.arg, e.pc))) s

/-- The host presents key vector `ks` and random byte `r` in the next cycle. -/
def withInput (ks : BitVec 16) (r : Byte) (s : State) : State := { s with inputs := [⟨ks, r⟩] }

/-- Other parameters. -/
def withConfig (f : Config → Config) (s : State) : State := { s with config := f s.config }

/-- V[x] holds `b`. -/
def v (x : Reg) (b : Byte) (s : State) : State := writeReg x b s

/-- `k` stack entries are held, entry j holding 0x300 + 4 j. -/
def withStack (k : Fin 16) (s : State) : State :=
  { s with sp := k, stack := Vector.ofFn (fun j => BitVec.ofNat 16 (0x300 + 4 * j.val)) }

/-- Mask12, the other setting of P_ADDR_POLICY. -/
def mask12 (s : State) : State := withConfig (fun c => { c with addrPolicy := .mask12 }) s

/-- ResultLast, the other setting of P_VF_WRITE_ORDER. -/
def resultLast (s : State) : State := withConfig (fun c => { c with vfWriteOrder := .resultLast }) s

/-- A meaning or a step that answers a next state gives a witness for statements about next states. -/
theorem witness_of {r : Result} {p : State → Bool} (h : (nextOf r).any p = true) :
    ∃ t, r = .next t ∧ p t = true := by
  cases r with
  | next t => exact ⟨t, rfl, h⟩
  | fault c => cases h
  | refused c => cases h

/-! ### WellFormed refuses operands their fields cannot hold -/

theorem test_x_refused : Operand.fits ⟨.x, 16⟩ = false ∧ Operand.fits ⟨.x, 15⟩ = true := by decide
theorem test_y_refused : Operand.fits ⟨.y, 16⟩ = false ∧ Operand.fits ⟨.y, 15⟩ = true := by decide
theorem test_kk_refused : Operand.fits ⟨.kk, 256⟩ = false ∧ Operand.fits ⟨.kk, 255⟩ = true := by decide
theorem test_nnn_refused : Operand.fits ⟨.nnn, 4096⟩ = false ∧ Operand.fits ⟨.nnn, 4095⟩ = true := by decide
theorem test_n_refused : Operand.fits ⟨.n, 16⟩ = false ∧ Operand.fits ⟨.n, 15⟩ = true := by decide
/-- S9: 3585 bytes are refused, 3584 are not. -/
theorem test_image_refused :
    imageFits (List.replicate 3585 0) = false ∧ imageFits (List.replicate 3584 0xAA) = true := by
  simp only [imageFits, romMax, List.length_replicate]
  decide

/-! ### Decoding: one word per constructor, written out bit by bit from R72 and R74 -/

theorem test_decode_group0 :
    decodeWord 0b0000_0000_1110_0000 = some .cls ∧ decodeWord 0b0000_0000_1110_1110 = some .ret := by decide

theorem test_decode_direct :
    decodeWord 0b0001_0010_0011_0100 = some (.jp 0x234) ∧
    decodeWord 0b0010_1100_1011_1010 = some (.call 0xCBA) ∧
    decodeWord 0b0011_1010_0101_1100 = some (.seImm 10 0x5C) ∧
    decodeWord 0b0100_0110_1001_0011 = some (.sneImm 6 0x93) ∧
    decodeWord 0b0101_0110_1001_0000 = some (.seReg 6 9) ∧
    decodeWord 0b0110_0101_1100_1010 = some (.ldImm 5 0xCA) ∧
    decodeWord 0b0111_1101_0011_0110 = some (.addImm 13 0x36) ∧
    decodeWord 0b1001_0101_1100_0000 = some (.sneReg 5 12) := by decide

theorem test_decode_alu :
    decodeWord 0b1000_0101_1100_0000 = some (.ldReg 5 12) ∧
    decodeWord 0b1000_0101_1100_0001 = some (.orReg 5 12) ∧
    decodeWord 0b1000_0101_1100_0010 = some (.andReg 5 12) ∧
    decodeWord 0b1000_0101_1100_0011 = some (.xorReg 5 12) ∧
    decodeWord 0b1000_0101_1100_0100 = some (.addReg 5 12) ∧
    decodeWord 0b1000_0101_1100_0101 = some (.subReg 5 12) ∧
    decodeWord 0b1000_0101_1100_0110 = some (.shr 5) ∧
    decodeWord 0b1000_0101_1100_0111 = some (.subnReg 5 12) ∧
    decodeWord 0b1000_0101_1100_1110 = some (.shl 5) := by decide

theorem test_decode_high :
    decodeWord 0b1010_0010_0011_0100 = some (.ldI 0x234) ∧
    decodeWord 0b1011_0010_0011_0100 = some (.jpV0 0x234) ∧
    decodeWord 0b1100_0011_1010_0101 = some (.rnd 3 0xA5) ∧
    decodeWord 0b1101_0011_1010_0101 = some (.drw 3 10 5) ∧
    decodeWord 0b1110_0110_1001_1110 = some (.skp 6) ∧
    decodeWord 0b1110_0110_1010_0001 = some (.sknp 6) := by decide

theorem test_decode_misc :
    decodeWord 0b1111_1001_0000_0111 = some (.ldVxDt 9) ∧
    decodeWord 0b1111_1001_0000_1010 = some (.ldVxK 9) ∧
    decodeWord 0b1111_1001_0001_0101 = some (.ldDtVx 9) ∧
    decodeWord 0b1111_1001_0001_1000 = some (.ldStVx 9) ∧
    decodeWord 0b1111_1001_0001_1110 = some (.addIVx 9) ∧
    decodeWord 0b1111_1001_0010_1001 = some (.ldFVx 9) ∧
    decodeWord 0b1111_1001_0011_0011 = some (.ldBVx 9) ∧
    decodeWord 0b1111_1001_0101_0101 = some (.stRegs 9) ∧
    decodeWord 0b1111_1001_0110_0101 = some (.ldRegs 9) := by decide

/-- Part 2.1: the invalid words. -/
theorem test_decode_invalid :
    [0x0001, 0x00FF, 0x8008, 0x800F, 0xE000, 0xE09F, 0xF000, 0xF056, 0xF0FF].map (fun w => decodeWord w) =
      [none, none, none, none, none, none, none, none, none] := by decide

/-- Part 2.1: bits that decoding ignores. -/
theorem test_decode_ignored :
    decodeWord 0x0120 = some .cls ∧ decodeWord 0x0FFE = some .ret ∧ decodeWord 0x5121 = some (.seReg 1 2) ∧
    decodeWord 0x8126 = some (.shr 1) := by decide

/-- R57, R70: two bytes, the first the high one; the bytes after them are left. -/
theorem test_decode_bytes :
    decodeBytes [0x6A, 0x02, 0x7A] = .instr (.ldImm 10 0x02) [0x7A] ∧ decodeBytes [0x6A] = .truncated ∧
    decodeBytes [0x80, 0x0F] = .invalidOpcode 0x800F := by decide

/-- A row of spec/opcode_table.json. -/
theorem test_decode_table_word : decodeTableWord 16 0x8124 = some (.addReg 1 2) := by decide

/-- The encoder writes the words of the spec's examples. -/
theorem test_encode :
    encode .cls = 0x00E0 ∧ encode (.ldImm 10 2) = 0x6A02 ∧ encode (.drw 1 2 5) = 0xD125 ∧
    encode (.stRegs 3) = 0xF355 ∧ encode (.shl 1) = 0x810E := by decide

/-- The first instruction after reset, placed where the step fetches it. -/
theorem test_with_fetch_word :
    sees (fun t => (readReg 10 t, t.pc, t.w)) (State.reset.withFetchWord 16 0x6A02) = some (0x02, 0x202, 0x6A02) := by
  decide

/-! ### Control flow (part 2.2) -/

theorem test_call :
    sees (fun t => (t.sp, t.stack[1], t.pc)) (at300 0x2400) = some (1, 0x300, 0x400) := by decide
theorem test_call_link_two :
    sees (fun t => (t.sp, t.stack[1], t.pc)) (withConfig (fun c => { c with linkOffset := .two }) (at300 0x2400)) =
      some (1, 0x302, 0x400) := by decide
theorem test_call_overflow :
    haltAfter (withStack 15 (at300 0x2400)) = some (some (2, "StackOverflow", none, 0x300)) := by decide
theorem test_ret :
    sees (fun t => (t.sp, t.stack[2], t.pc)) (withStack 2 (at300 0x00EE)) = some (1, 0x308, 0x30A) := by decide
theorem test_ret_underflow : haltAfter (at300 0x0FFE) = some (some (3, "StackUnderflow", none, 0x300)) := by decide
theorem test_jp : pcAfter (at300 0x1FFF) = some 0xFFF := by decide
theorem test_jp_v0 : pcAfter (v 0 0xFF (at300 0xBFFF)) = some 0x10FE := by decide
theorem test_se_imm :
    pcAfter (v 3 0x12 (at300 0x3312)) = some 0x304 ∧ pcAfter (v 3 0x12 (at300 0x3313)) = some 0x302 := by decide
theorem test_sne_imm :
    pcAfter (v 3 0x12 (at300 0x4312)) = some 0x302 ∧ pcAfter (v 3 0x12 (at300 0x4300)) = some 0x304 := by decide
theorem test_se_reg :
    pcAfter (v 1 0x40 (v 2 0x40 (at300 0x5120))) = some 0x304 ∧ pcAfter (v 1 7 (at300 0x5120)) = some 0x302 := by decide
theorem test_sne_reg :
    pcAfter (v 1 0x40 (v 2 0x41 (at300 0x9120))) = some 0x304 ∧ pcAfter (v 1 7 (at300 0x9110)) = some 0x302 := by decide

/-! ### ALU (part 2.3) -/

theorem test_ld_imm : regAfter 10 (at300 0x6A02) = some (0x02, 0) := by decide
theorem test_add_imm :
    regAfter 10 (v 10 0x02 (v 15 0x07 (at300 0x7AFF))) = some (0x01, 0x07) ∧
    regAfter 15 (v 15 0x02 (at300 0x7FFF)) = some (0x01, 0x01) := by decide
theorem test_ld_reg : regAfter 1 (v 2 0x9C (at300 0x8120)) = some (0x9C, 0) := by decide
theorem test_or : regAfter 1 (v 1 0xF0 (v 2 0x0F (v 15 7 (at300 0x8121)))) = some (0xFF, 7) := by decide
theorem test_and : regAfter 1 (v 1 0xF0 (v 2 0x3C (v 15 7 (at300 0x8122)))) = some (0x30, 7) := by decide
theorem test_xor : regAfter 1 (v 1 0xFF (v 2 0x0F (v 15 7 (at300 0x8123)))) = some (0xF0, 7) := by decide
theorem test_add :
    regAfter 1 (v 1 0xFF (v 2 0x01 (at300 0x8124))) = some (0x00, 1) ∧
    regAfter 1 (v 1 0xFE (v 2 0x01 (at300 0x8124))) = some (0xFF, 0) := by decide
theorem test_add_vf :
    regAfter 15 (v 15 0x80 (at300 0x8FF4)) = some (0x01, 0x01) ∧
    regAfter 15 (resultLast (v 15 0x80 (at300 0x8FF4))) = some (0x00, 0x00) := by decide
theorem test_sub :
    regAfter 1 (v 1 0x03 (v 2 0x05 (at300 0x8125))) = some (0xFE, 0) ∧
    regAfter 1 (v 1 0x05 (v 2 0x05 (at300 0x8125))) = some (0x00, 1) := by decide
theorem test_sub_vf :
    regAfter 15 (v 15 0x03 (v 1 0x05 (at300 0x8F15))) = some (0x00, 0x00) ∧
    regAfter 15 (resultLast (v 15 0x03 (v 1 0x05 (at300 0x8F15)))) = some (0xFE, 0xFE) := by decide
theorem test_subn :
    regAfter 1 (v 1 0x03 (v 2 0x05 (at300 0x8127))) = some (0x02, 1) ∧
    regAfter 1 (v 1 0xFF (v 2 0x00 (at300 0x8127))) = some (0x01, 0) := by decide
theorem test_subn_vf :
    regAfter 15 (v 15 0x05 (v 1 0x03 (at300 0x8F17))) = some (0x00, 0x00) ∧
    regAfter 15 (resultLast (v 15 0x05 (v 1 0x03 (at300 0x8F17)))) = some (0xFE, 0xFE) := by decide
theorem test_shr :
    regAfter 1 (v 1 0xFF (at300 0x8106)) = some (0x7F, 1) ∧ regAfter 1 (v 1 0x80 (at300 0x8106)) = some (0x40, 0) := by
  decide
theorem test_shr_vf :
    regAfter 15 (v 15 0x02 (at300 0x8F06)) = some (0x00, 0x00) ∧
    regAfter 15 (resultLast (v 15 0x02 (at300 0x8F06))) = some (0x01, 0x01) := by decide
theorem test_shl :
    regAfter 1 (v 1 0x21 (at300 0x810E)) = some (0x42, 1) ∧ regAfter 1 (v 1 0x80 (at300 0x810E)) = some (0x00, 0) := by
  decide
theorem test_shl_msb :
    regAfter 1 (withConfig (fun c => { c with shlFlag := .msb }) (v 1 0x80 (at300 0x810E))) = some (0x00, 1) ∧
    regAfter 1 (withConfig (fun c => { c with shlFlag := .msb }) (v 1 0x21 (at300 0x810E))) = some (0x42, 0) := by decide
theorem test_rnd :
    regAfter 3 (withInput 0 0xAB (at300 0xC30F)) = some (0x0B, 0) ∧
    regAfter 3 (withInput 0 0xAB (at300 0xC300)) = some (0x00, 0) := by decide

/-! ### Index register and memory (part 2.4) -/

theorem test_ld_i : sees State.i (at300 0xA123) = some 0x123 := by decide
theorem test_add_i :
    sees State.i (writeI 0x0FFF (v 2 0x01 (at300 0xF21E))) = some 0x1000 ∧
    sees State.i (writeI 0xFFFF (v 2 0x02 (at300 0xF21E))) = some 0x0001 := by decide
theorem test_ld_f :
    sees State.i (v 0 0x0F (at300 0xF029)) = some 0x04B ∧ sees State.i (v 0 0xFF (at300 0xF029)) = some 0x4FB := by
  decide
theorem test_bcd :
    sees (fun t => (t.mem.read 0x400, t.mem.read 0x401, t.mem.read 0x402)) (writeI 0x400 (v 0 234 (at300 0xF033))) =
      some (2, 3, 4) := by decide
theorem test_bcd_outside :
    haltAfter (writeI 0xFFE (v 0 1 (at300 0xF033))) = some (some (4, "MemoryOutOfRange", some 0x1000, 0x300)) ∧
    sees (fun t => t.mem.read 0xFFE) (writeI 0xFFE (v 0 234 (at300 0xF033))) = some 0 := by decide
theorem test_st_regs :
    sees (fun t => ([0x400, 0x401, 0x402, 0x403, 0x404].map t.mem.read, t.i))
      (writeI 0x400 (v 0 1 (v 1 2 (v 2 3 (v 3 4 (v 4 9 (at300 0xF355))))))) = some ([1, 2, 3, 4, 0], 0x400) := by decide
theorem test_st_regs_end :
    sees (fun t => (t.mem.read 0xFFF, t.halted)) (writeI 0xFF0 (v 15 0x5A (at300 0xFF55))) = some (0x5A, false) ∧
    haltAfter (writeI 0xFF1 (at300 0xFF55)) = some (some (4, "MemoryOutOfRange", some 0x1000, 0x300)) := by decide
theorem test_ld_regs :
    sees (fun t => ([0, 1, 2, 3].map (fun r => readReg r t), t.i))
      (memWriteList 0x400 [5, 6, 7, 8] (writeI 0x400 (v 3 0xAA (at300 0xF265)))) =
      some ([5, 6, 7, 0xAA], 0x400) := by decide
theorem test_ld_regs_mask12 :
    sees (fun t => ([0, 1, 2].map (fun r => readReg r t), t.i))
      (memWrite 0xFFF 0x11 (writeI 0xFFF (mask12 (at300 0xF265)))) = some ([0x11, 0xF0, 0x90], 0xFFF) := by decide

/-! ### Display (part 2.5) -/

/-- CLS sets Dirty, so the cycle presents. -/
theorem test_cls :
    sees (fun t => (pixel t.fb 3 4, t.present, t.dirty))
      (let s := at300 0x00E0; { s with fb := togglePixel s.fb 3 4 }) = some (false, true, false) := by decide
theorem test_drw_clips :
    sees (fun t => (t.fb[0], readReg vf t)) (memWrite 0x400 0xFF (writeI 0x400 (v 0 60 (at300 0xD011)))) =
      some (0xF000_0000_0000_0000, 0) ∧
    sees (fun t => (t.fb == blankFb, readReg vf t, t.present))
      (memWrite 0x400 0xFF (writeI 0x400 (v 0 64 (at300 0xD011)))) = some (true, 0, true) := by decide
theorem test_drw_collides :
    sees (fun t => (pixel t.fb 0 0, pixel t.fb 1 0, readReg vf t))
      (let s := memWrite 0x400 0xC0 (writeI 0x400 (at300 0xD011)); { s with fb := togglePixel s.fb 0 0 }) =
      some (false, true, 1) ∧
    sees (fun t => (pixel t.fb 5 5, readReg vf t)) (memWrite 0x400 0x80 (writeI 0x400 (v 15 5 (at300 0xDFF1)))) =
      some (true, 0) := by decide
theorem test_drw_outside :
    haltAfter (writeI 0xFF2 (at300 0xD01F)) = some (some (4, "MemoryOutOfRange", some 0x1000, 0x300)) ∧
    sees (fun t => (t.halted, t.present)) (writeI 0xFF1 (at300 0xD01F)) = some (false, true) ∧
    sees (fun t => (t.halted, t.present)) (writeI 0xFF2 (at300 0xD01F)) = some (true, false) := by decide

/-! ### Input and timers (part 2.6) -/

theorem test_skp :
    pcAfter (withInput 0x0080 0 (v 0 7 (at300 0xE09E))) = some 0x304 ∧
    pcAfter (withInput 0x0008 0 (v 0 7 (at300 0xE09E))) = some 0x302 := by decide
theorem test_skp_index :
    haltAfter (v 0 16 (at300 0xE09E)) = some (some (5, "KeyIndexOutOfRange", some 16, 0x300)) := by decide
theorem test_sknp : pcAfter (withInput 0x0008 0 (v 0 7 (at300 0xE0A1))) = some 0x304 := by decide
theorem test_sknp_index :
    haltAfter (v 0 0xFF (at300 0xE0A1)) = some (some (5, "KeyIndexOutOfRange", some 0xFF, 0x300)) := by decide
theorem test_ld_k :
    sees (fun t => (readReg 3 t, t.pc)) (withInput 0x0208 0 (at300 0xF30A)) = some (3, 0x302) ∧
    sees (fun t => (readReg 3 t, t.pc))
      (withConfig (fun c => { c with ldkAdvance := .four }) (withInput 0x8000 0 (at300 0xF30A))) =
      some (15, 0x304) := by decide
theorem test_ld_k_waits :
    sees (fun t => (readReg 3 t, t.pc, t.dt, t.st))
      (let s := v 3 0x55 (at300 0xF30A); { s with dt := 5, st := 3 }) = some (0x55, 0x300, 4, 2) := by decide
theorem test_ld_vx_dt :
    sees (fun t => (readReg 3 t, t.dt)) { at300 0xF307 with dt := 0x3C } = some (0x3C, 0x3B) := by decide
theorem test_ld_dt_vx : sees State.dt (v 3 5 (at300 0xF315)) = some 4 := by decide
theorem test_ld_st_vx :
    sees (fun t => (t.st, t.beep)) (v 3 2 (at300 0xF318)) = some (1, false) ∧
    sees (fun t => (t.st, t.beep)) (v 0 1 (at300 0xF018)) = some (0, true) := by decide
theorem test_ld_st_cancels :
    sees (fun t => (t.st, t.beep)) { at300 0xF018 with st := 1 } = some (0, false) := by decide

/-! ### The cycle, errors, reset and load (parts 1, 2.1, 2.7) -/

/-- An invalid word halts, the timers do not count, nothing beeps. -/
theorem test_invalid_opcode :
    haltAfter { at300 0x0001 with dt := 5, st := 1 } = some (some (1, "InvalidOpcode", none, 0x300)) ∧
    sees (fun t => (t.dt, t.st, t.beep)) { at300 0x0001 with dt := 5, st := 1 } = some (5, 1, false) := by decide
/-- The fetch after `1FFF` names PC + 1, the one after `BFFF` names PC. -/
theorem test_fetch_outside :
    sees State.err (jumpTo 0xFFF (at300 0)) = some (some ⟨.memoryOutOfRange, 0xFFF, none, some 0x1000⟩) ∧
    sees State.err (jumpTo 0x10FE (at300 0)) = some (some ⟨.memoryOutOfRange, 0x10FE, none, some 0x10FE⟩) := by decide
theorem test_reset_font :
    [0x000, 0x001, 0x004, 0x04B, 0x04F, 0x050].map State.reset.mem.read = [0xF0, 0x90, 0xF0, 0xF0, 0x80, 0] := by decide
theorem test_reset_memory_canonical : State.reset.mem.wf = true := by decide
/-- A reset with the standard font given as a table is the reset state. -/
theorem test_reset_with_font :
    State.resetWith defaultConfig (Vector.ofFn (fun j => standardFont.getD j.val 0)) = State.reset := by decide
/-- S7: after loading `00E0 1200` the first strobe clears the screen and presents. -/
theorem test_load :
    (match (Session.created State.reset).move (.load [0x00, 0xE0, 0x12, 0x00]) with
     | some (.loaded, σ) => (σ.move (.step ⟨0, 0⟩)).bind (fun a => a.2.state.map (fun t => (t.pc, t.present, t.mem.read 0x202)))
     | _ => none) = some (0x202, true, 0x12) := by decide
/-- Part 2.7: an empty image is accepted; S9: one of 3585 bytes is rejected with nothing changed. -/
theorem test_load_length :
    (Session.created State.reset).move (.load []) = some (.loaded, .running State.reset) ∧
    (Session.created State.reset).move (.load (List.replicate 3585 0)) = some (.romTooLarge, .rejected State.reset) := by
  simp only [Session.move, Session.load, loadPort, imageFits, romMax, List.length_replicate, List.length_nil]
  exact ⟨rfl, rfl⟩
/-- R268: no load of a running CORE, no second load, no strobe before the load; the host may create anew at any time. -/
theorem test_load_once :
    (Session.running State.reset).move (.load []) = none ∧ (Session.rejected State.reset).move (.load []) = none ∧
    (Session.created State.reset).move (.step ⟨0, 0⟩) = none ∧ Session.absent.move .observe = none ∧
    ((Session.running State.reset).move (.create defaultConfig (Vector.replicate 80 0))).isSome = true := by decide
/-- A halted CORE holds everything and gives no pulse. -/
theorem test_halted :
    sees (fun t => (t.pc, t.dt, t.beep)) { at300 0x6A02 with halted := true, dt := 5, beep := true } =
      some (0x300, 5, false) := by decide
/-- What the host sees after a cycle. -/
theorem test_host_view :
    sees (fun t => (t.hostView.halted, t.hostView.present, t.hostView.fb == blankFb)) (at300 0x00E0) =
      some (false, true, true) := by decide

/-! ### Witnesses: decoding and memory -/

theorem witness_DecodeInvertsEncode :
    (Instr.drw 15 15 15).wellFormed = true ∧ (Instr.jp 0xFFF).wellFormed = true ∧ Instr.cls.wellFormed = true := by decide

theorem witness_OperandsAreTheFieldsOfTheWord :
    decodeWord 0xDF0F = some (.drw 15 0 15) ∧ ⟨.n, 15⟩ ∈ (Instr.drw 15 0 15).operands ∧
    decodeWord 0x1FFF = some (.jp 0xFFF) ∧ ⟨.nnn, 0xFFF⟩ ∈ (Instr.jp 0xFFF).operands := by decide

theorem witness_IgnoredBitsSelectTheSameInstruction :
    decodeWord 0x0120 = some .cls ∧ (0x0FF0 : Word) &&& significantMask .cls = 0x0120 &&& significantMask .cls := by
  decide

theorem witness_AddressPolicyRefusesOrMasks :
    State.reset.config.addrPolicy = .fault ∧ 0x1000 ≤ 0x1000 ∧ 0xFFF < 0x1000 ∧
    (mask12 State.reset).config.addrPolicy = .mask12 := by decide

theorem witness_ReadsReturnTheLastWrite :
    State.reset.mem.wf = true ∧ checkAddr State.reset.config.addrPolicy 0xFFF = some 0xFFF ∧
    checkAddr State.reset.config.addrPolicy 0x1000 ≠ some 0xFFF ∧
    checkAddr (mask12 State.reset).config.addrPolicy 0x1FFF = some 0xFFF ∧
    checkAddr (mask12 State.reset).config.addrPolicy 0x0FFF = some 0xFFF ∧
    checkAddr (mask12 State.reset).config.addrPolicy 0x1000 ≠ some 0xFFF := by decide

/-! ### Witnesses: the cycle -/

theorem witness_FetchReadsTheWordAtPc :
    (jumpTo 0xFFE State.reset).config.addrPolicy = .fault ∧ (jumpTo 0xFFE State.reset).pc.toNat < 0xFFF ∧
    0xFFF ≤ (jumpTo 0xFFF State.reset).pc.toNat ∧ (mask12 (jumpTo 0xFFF State.reset)).config.addrPolicy = .mask12 := by
  decide

theorem witness_StepRunsTheDecodedInstruction :
    (at300 0xD125).halted = false ∧ checkAddr (at300 0xD125).config.addrPolicy (at300 0xD125).pc.toNat = some 0x300 ∧
    checkAddr (at300 0xD125).config.addrPolicy ((at300 0xD125).pc.toNat + 1) = some 0x301 ∧
    decodeBytes [(at300 0xD125).mem.read 0x300, (at300 0xD125).mem.read 0x301] = .instr (.drw 1 2 5) [] := by decide

/-- A host that names the input, and the reset state, whose host names none. -/
theorem witness_EveryCycleCopiesTheKeyPort :
    ((at300 0x6A02).halted = false ∧ (at300 0x6A02).inputs = ⟨0, 0⟩ :: [] ∧
      ∃ t, step (at300 0x6A02) = .next t ∧ t.inputs.isEmpty = true) ∧
    State.reset.halted = false ∧ State.reset.inputs = [] ∧ ∃ t, step State.reset = .next t ∧ t.inputs.isEmpty = true :=
  ⟨⟨by decide, by decide, witness_of (p := fun t => t.inputs.isEmpty) (by decide)⟩, rfl, rfl,
    witness_of (p := fun t => t.inputs.isEmpty) (by decide)⟩

/-- A cycle that completes: every hypothesis of a statement about completed cycles. -/
theorem witness_CompletedCyclesCountTimersAndPresent :
    State.reset.halted = false ∧ ∃ t, step State.reset = .next t ∧ (!t.halted) = true :=
  ⟨rfl, witness_of (p := fun t => !t.halted) (by decide)⟩

/-- Cycles that complete and execute LD DT, LD ST, and neither. -/
theorem witness_TimersCountDownEveryCycle :
    (fetchedInstr (v 3 5 (at300 0xF315)) = some (.ldDtVx 3) ∧
      ∃ t, step (v 3 5 (at300 0xF315)) = .next t ∧ (!t.halted) = true) ∧
    (fetchedInstr (v 3 1 (at300 0xF318)) = some (.ldStVx 3) ∧
      ∃ t, step (v 3 1 (at300 0xF318)) = .next t ∧ (!t.halted) = true) ∧
    (fetchedInstr (at300 0x6A02) = some (.ldImm 10 2) ∧ ∃ t, step (at300 0x6A02) = .next t ∧ (!t.halted) = true) :=
  ⟨⟨by decide, witness_of (p := fun t => !t.halted) (by decide)⟩,
    ⟨by decide, witness_of (p := fun t => !t.halted) (by decide)⟩,
    ⟨by decide, witness_of (p := fun t => !t.halted) (by decide)⟩⟩

/-- ST = 1 and a cycle that executes CLS: the beep is in the first cycle (n = 1). -/
theorem witness_SoundTimerBeepsExactlyOnce :
    ∃ run : Nat → State, (run 0).st = 1 ∧ ∀ k < 1, (run k).halted = false ∧ step (run k) = .next (run (k + 1)) ∧
      (run (k + 1)).halted = false ∧ ∀ x, fetchedInstr (run k) ≠ some (.ldStVx x) := by
  obtain ⟨t, ht, hp⟩ := witness_of (r := step { State.reset with st := 1 }) (p := fun t => !t.halted) (by decide)
  refine ⟨fun k => if k = 0 then { State.reset with st := 1 } else t, rfl, fun k hk => ?_⟩
  obtain rfl : k = 0 := by omega
  have hf : fetchedInstr { State.reset with st := 1 } = some .cls := by decide
  exact ⟨rfl, ht, by simpa using hp, fun x h => by cases hf.symm.trans h⟩

/-! ### Witnesses: errors -/

theorem witness_InvalidWordHaltsTheCore :
    (at300 0x0001).halted = false ∧ (fetch (at300 0x0001)).toOption = some 0x0001 ∧ decodeWord 0x0001 = none := by decide

theorem witness_FetchOutsideMemoryHaltsTheCore :
    (jumpTo 0xFFF State.reset).halted = false ∧ (jumpTo 0xFFF State.reset).config.addrPolicy = .fault ∧
    0xFFF ≤ (jumpTo 0xFFF State.reset).pc.toNat := by decide

theorem witness_ErrorsArePrecise :
    (at300 0x00EE).halted = false ∧ ∃ t, step (at300 0x00EE) = .next t ∧ t.halted = true :=
  ⟨by decide, witness_of (p := State.halted) (by decide)⟩

/-- An instruction that raises its error, and one that does not. -/
theorem witness_InstructionsRaiseOnlyTheirOwnError :
    (∃ t, exec .ret State.reset = .next t ∧ t.halted = true) ∧
    ∃ t, exec .cls State.reset = .next t ∧ (!t.halted) = true :=
  ⟨witness_of (p := State.halted) (by decide), witness_of (p := fun t => !t.halted) (by decide)⟩

theorem witness_HaltedCoreIgnoresStrobes : (raise .invalidOpcode (some 1) none State.reset).halted = true := by decide

theorem witness_HaltIsPermanent : (raise .memoryOutOfRange none (some 0x1000) State.reset).halted = true := by decide

/-- Reset memory is zero from 0x200 on, which is CLS. -/
theorem witness_SafeRunsHaveSafePrefixes : 0 ≤ 1 ∧ RunsSafely 1 State.reset := by
  obtain ⟨t, ht, hp⟩ := witness_of (r := step State.reset) (p := fun t => !t.halted) (by decide)
  exact ⟨by decide, t, by rw [core_run_succ ht]; rfl, by simpa using hp⟩

/-! ### Witnesses: reset, load, the invariant, whole-machine rules -/

theorem witness_LoadCopiesTheImageOrRejectsIt :
    State.reset.mem.wf = true ∧ 3584 < (List.replicate 3585 (0 : Byte)).length ∧
    (List.replicate 3584 (0xAA : Byte)).length ≤ 3584 ∧ ∀ u, Session.running State.reset ≠ .created u := by
  simp only [List.length_replicate]
  exact ⟨by decide, by decide, by decide, fun _ h => by cases h⟩

/-- The invariant with a step: a running state, a state whose step raises an error, a halted state. -/
theorem witness_EveryStepKeepsTheInvariant :
    (Inv State.reset ∧ ∃ t, step State.reset = .next t ∧ (!t.halted) = true) ∧
    (Inv (jumpTo 0xFFF State.reset) ∧ ∃ t, step (jumpTo 0xFFF State.reset) = .next t ∧ t.halted = true) ∧
    Inv (raise .stackUnderflow (some 0x00EE) none State.reset) :=
  ⟨⟨⟨by decide, rfl, rfl, fun h => absurd h (by decide)⟩, witness_of (p := fun t => !t.halted) (by decide)⟩,
    ⟨⟨by decide, rfl, rfl, fun h => absurd h (by decide)⟩, witness_of (p := State.halted) (by decide)⟩,
    ⟨by decide, rfl, ⟨rfl, rfl, rfl, rfl, 0x00EE, rfl, by decide⟩, fun _ => ⟨rfl, rfl⟩⟩⟩

theorem witness_OnlyNamedRegistersAreWritten :
    ∃ t, exec (.addReg 1 2) State.reset = .next t ∧ (readReg 3 t == 0) = true :=
  witness_of (p := fun t => readReg 3 t == 0) (by decide)

/-- An instruction outside every list of writers. -/
theorem witness_OnlyNamedInstructionsWrite :
    (∃ t, exec (.jp 0x300) State.reset = .next t ∧ (!t.halted) = true) ∧
    writesStack (.jp 0x300) = false ∧ writesIndex (.jp 0x300) = false ∧ writesMemory (.jp 0x300) = false ∧
    writesDisplay (.jp 0x300) = false ∧ (∀ x, Instr.jp 0x300 ≠ .ldDtVx x) ∧ (∀ x, Instr.jp 0x300 ≠ .ldStVx x) ∧
    ∀ x, Instr.jp 0x300 ≠ .ldVxK x :=
  ⟨witness_of (p := fun t => !t.halted) (by decide), rfl, rfl, rfl, rfl, by decide, by decide, by decide⟩

theorem witness_StepsKeepStackEntryZeroAndParameters :
    ∃ t, step (at300 0x2400) = .next t ∧ (t.sp == 1) = true := witness_of (p := fun t => t.sp == 1) (by decide)

theorem witness_OnlyRndReadsTheRandomByte : ∀ x kk, Instr.ldVxK 3 ≠ .rnd x kk := by intro x kk h; cases h

theorem witness_OnlyKeyInstructionsReadKeys : readsKeys (.rnd 3 0xFF) = false := by decide

/-! ### Witnesses: instructions -/

/-- A skip whose condition holds and one whose condition does not; words that select the four rows. -/
theorem witness_RegisterSkips :
    readReg 3 (v 3 0x12 State.reset) = 0x12 ∧ readReg 3 (v 3 0x12 State.reset) ≠ 0x13 ∧
    readReg 1 State.reset = readReg 2 State.reset ∧ readReg 3 (v 3 0x12 State.reset) ≠ readReg 2 (v 3 0x12 State.reset) ∧
    (0x3312 : Word) &&& 0xF000 = 0x3000 ∧ (0x4312 : Word) &&& 0xF000 = 0x4000 ∧ (0x512F : Word) &&& 0xF000 = 0x5000 ∧
    (0x912F : Word) &&& 0xF000 = 0x9000 := by decide

theorem witness_JumpsSetPc : (0x1FFF : Word) &&& 0xF000 = 0x1000 ∧ (0xBFFF : Word) &&& 0xF000 = 0xB000 := by decide

/-- 14 entries held, 15 entries held, and both link offsets. -/
theorem witness_CallPushesAndJumps :
    (withStack 14 State.reset).sp ≠ 15 ∧ (withStack 15 State.reset).sp = 15 ∧
    State.reset.config.linkOffset = .zero ∧
    (withConfig (fun c => { c with linkOffset := .two }) State.reset).config.linkOffset = .two ∧
    (0x2FFF : Word) &&& 0xF000 = 0x2000 := by decide

theorem witness_RetPopsAndAddsTwo :
    (withStack 1 State.reset).sp ≠ 0 ∧ State.reset.sp = 0 ∧ (0x0FFE : Word) &&& 0xF00F = 0x000E := by decide

/-- A CALL at depth 14 and its RET. -/
theorem witness_RetReturnsPastItsCall :
    (withStack 14 State.reset).sp ≠ 15 ∧ ∃ t, exec (.call 0x400) (withStack 14 State.reset) = .next t ∧
      (exec .ret t = .next (jumpTo (topReturn t + 2) (popReturn t))) :=
  ⟨by decide, _, rfl, rfl⟩

theorem witness_RegisterLoads :
    (0x6FFF : Word) &&& 0xF000 = 0x6000 ∧ (0x8FF0 : Word) &&& 0xF00F = 0x8000 ∧ (0xFF07 : Word) &&& 0xF0FF = 0xF007 ∧
    (0xCFFF : Word) &&& 0xF000 = 0xC000 := by decide

theorem witness_FlaglessArithmetic :
    (0x7FFF : Word) &&& 0xF000 = 0x7000 ∧ (0x8FF1 : Word) &&& 0xF00F = 0x8001 ∧ (0x8FF2 : Word) &&& 0xF00F = 0x8002 ∧
    (0x8FF3 : Word) &&& 0xF00F = 0x8003 := by decide

/-- Destinations other than VF, and VF under either write order. -/
theorem witness_AddSetsCarry :
    (14 : Reg) ≠ vf ∧ (15 : Reg) = vf ∧ State.reset.config.vfWriteOrder = .flagLast ∧
    (resultLast State.reset).config.vfWriteOrder = .resultLast ∧ (0x8FF4 : Word) &&& 0xF00F = 0x8004 := by decide

theorem witness_SubtractSetsNotBorrow :
    (0 : Reg) ≠ vf ∧ (15 : Reg) = vf ∧ State.reset.config.vfWriteOrder = .flagLast ∧
    (resultLast State.reset).config.vfWriteOrder = .resultLast ∧ (0x8FF5 : Word) &&& 0xF00F = 0x8005 ∧
    (0x8FF7 : Word) &&& 0xF00F = 0x8007 := by decide

theorem witness_ShiftsSetFlagFromOldValue :
    (0 : Reg) ≠ vf ∧ (15 : Reg) = vf ∧ State.reset.config.vfWriteOrder = .flagLast ∧
    (resultLast State.reset).config.vfWriteOrder = .resultLast ∧ (0x8FF6 : Word) &&& 0xF00F = 0x8006 ∧
    (0x8FFE : Word) &&& 0xF00F = 0x800E := by decide

theorem witness_IndexRegisterWrites :
    (0xAFFF : Word) &&& 0xF000 = 0xA000 ∧ (0xFF1E : Word) &&& 0xF0FF = 0xF01E ∧ (0xFF29 : Word) &&& 0xF0FF = 0xF029 := by
  decide

/-- The last block of three bytes inside memory, the first one outside, and the addresses of its bytes. -/
theorem witness_BcdStoresThreeDigits :
    State.reset.mem.wf = true ∧ ¬ BlockOutside 3 (writeI 0xFFD State.reset) ∧ BlockOutside 3 (writeI 0xFFE State.reset) ∧
    ¬ BlockOutside 3 (mask12 (writeI 0xFFE State.reset)) ∧ checkAddr .fault (0xFFD + 2) = some 0xFFF ∧
    checkAddr .mask12 (0xFFE + 2) = some 0 ∧ (0xFF33 : Word) &&& 0xF0FF = 0xF033 := by
  unfold BlockOutside
  decide

theorem witness_BlockStoreWritesRegisters :
    State.reset.mem.wf = true ∧ ¬ BlockOutside 16 (writeI 0xFF0 State.reset) ∧
    BlockOutside 16 (writeI 0xFF1 State.reset) ∧ ¬ BlockOutside 1 (writeI 0xFFF State.reset) ∧
    BlockOutside 1 (writeI 0x1000 State.reset) ∧ (0xFF55 : Word) &&& 0xF0FF = 0xF055 := by
  unfold BlockOutside
  decide

theorem witness_BlockLoadReadsRegisters :
    ¬ BlockOutside 16 (writeI 0xFF0 State.reset) ∧ BlockOutside 16 (writeI 0xFF1 State.reset) ∧
    (15 : Reg) ≤ 15 ∧ (14 : Reg) < 15 ∧ checkAddr .fault (0xFF0 + 15) = some 0xFFF ∧
    (0xFF65 : Word) &&& 0xF0FF = 0xF065 := by
  unfold BlockOutside
  decide

/-- A block store of V0..V3 at 0x400, then a block load of them in the state with the registers zeroed. -/
theorem witness_BlockStoreThenLoadRestoresRegisters :
    ∃ t u r, State.reset.mem.wf = true ∧ ¬ BlockOutside 4 (writeI 0x400 (v 3 4 State.reset)) ∧
      exec (.stRegs 3) (writeI 0x400 (v 3 4 State.reset)) = .next t ∧ u.mem = t.mem ∧ u.i = 0x400 ∧
      u.config = State.reset.config ∧ readReg 3 u = 0 ∧ exec (.ldRegs 3) u = .next r := by
  obtain ⟨t, ht, hp⟩ := witness_of (r := exec (.stRegs 3) (writeI 0x400 (v 3 4 State.reset)))
    (p := fun t => decide (t.i = 0x400 ∧ t.config = State.reset.config)) (by decide)
  have hi := of_decide_eq_true hp
  exact ⟨t, writeReg 3 0 t, _, by decide, by unfold BlockOutside; decide, ht, rfl, hi.1, hi.2, by simp, rfl⟩

theorem witness_StoresAreSeenByFetch :
    ∃ t, State.reset.mem.wf = true ∧ ¬ BlockOutside 2 (writeI 0xFFE State.reset) ∧ 1 ≤ (1 : Reg).val ∧
      exec (.stRegs 1) (writeI 0xFFE State.reset) = .next t ∧ (jumpTo 0xFFE t).mem = t.mem ∧
      (jumpTo 0xFFE t).config = t.config ∧ (jumpTo 0xFFE t).pc = (writeI 0xFFE State.reset).i :=
  ⟨_, by decide, by unfold BlockOutside; decide, by decide, rfl, rfl, rfl, rfl⟩

theorem witness_ClsClearsEveryPixel : (0x0120 : Word) &&& 0xF00F = 0x0000 := by decide

/-- Sprite byte 0x80 at 0x400, drawn at (63, 31): the corner pixel is under the sprite, its left neighbour is not; the
block ends inside memory for I = 0xFF1 and outside for I = 0xFF2. -/
theorem witness_DrwXorsTheSprite :
    UnderSprite 0 1 1 (memWrite 0x400 0x80 (writeI 0x400 (v 0 63 (v 1 31 State.reset)))) 63 31 ∧
    ¬ UnderSprite 0 1 1 (memWrite 0x400 0x80 (writeI 0x400 (v 0 63 (v 1 31 State.reset)))) 62 31 ∧
    pixel (togglePixel blankFb 63 31) 63 31 = true ∧ pixel blankFb 63 31 = false ∧
    ¬ BlockOutside 15 (writeI 0xFF1 State.reset) ∧ BlockOutside 15 (writeI 0xFF2 State.reset) ∧
    (0xDFFF : Word) &&& 0xF000 = 0xD000 := by
  unfold UnderSprite BlockOutside
  decide

theorem witness_DrwOutsideTheGridDrawsNothing :
    ¬ BlockOutside 1 (v 0 64 (v 1 32 State.reset)) ∧ 64 ≤ (readReg 0 (v 0 64 (v 1 32 State.reset))).toNat ∧
    32 ≤ (readReg 1 (v 0 64 (v 1 32 State.reset))).toNat ∧ ¬ BlockOutside 0 State.reset ∧ (0 : RowCount).val = 0 := by
  unfold BlockOutside
  decide

/-- The glyph at 0x000 drawn twice at (0, 0). -/
theorem witness_DrwTwiceRestoresTheFramebuffer :
    ∃ t r, ¬ BlockOutside 5 State.reset ∧ exec (.drw 1 2 5) State.reset = .next t ∧ t.mem = State.reset.mem ∧
      t.i = State.reset.i ∧ t.config = State.reset.config ∧ readReg 1 t = readReg 1 State.reset ∧
      readReg 2 t = readReg 2 State.reset ∧ exec (.drw 1 2 5) t = .next r :=
  ⟨_, _, by unfold BlockOutside; decide, rfl, rfl, rfl, rfl, rfl, rfl, rfl⟩

/-- Key 15, the largest, and 16, which names no key; a key down and a key up. -/
theorem witness_KeySkips :
    (readReg 0 (v 0 15 State.reset)).toNat < 16 ∧ 16 ≤ (readReg 0 (v 0 16 State.reset)).toNat ∧
    keyDown 0x8000 15 = true ∧ keyDown 0x8000 14 = false ∧ (0xEF9E : Word) &&& 0xF0FF = 0xE09E ∧
    (0xEFA1 : Word) &&& 0xF0FF = 0xE0A1 := by decide

theorem witness_KeyWaitTakesAPressedKey :
    (∀ k < 16, keyDown State.reset.keys k = false) ∧ keyDown ({ State.reset with keys := 0x8000 } : State).keys 15 = true ∧
    State.reset.config.ldkSelect = .lowest ∧ State.reset.config.ldkAdvance = .two ∧
    (withConfig (fun c => { c with ldkAdvance := .four }) State.reset).config.ldkAdvance = .four ∧
    (0xFF0A : Word) &&& 0xF0FF = 0xF00A := by decide

theorem witness_WaitingKeepsPcAndCountsTimers :
    (at300 0xF30A).halted = false ∧ fetchedInstr (at300 0xF30A) = some (.ldVxK 3) ∧ (snapshot (at300 0xF30A)).keys = 0 := by
  decide

theorem witness_TimerWrites : (0xFF15 : Word) &&& 0xF0FF = 0xF015 ∧ (0xFF18 : Word) &&& 0xF0FF = 0xF018 := by decide

/-! ### Witnesses: the host's moves -/

/-- Each of the three moves on a running CORE. -/
theorem witness_HostChangesARunningCoreOnlyByStrobes :
    ((Session.running State.reset).move (.create defaultConfig (Vector.replicate 80 0))).isSome = true ∧
    ((Session.running State.reset).move (.step ⟨0x8000, 0xAB⟩)).isSome = true ∧
    ((Session.running State.reset).move .observe).isSome = true ∧ State.reset.halted = false := by decide

theorem witness_HostFollowsTheBootOrder :
    (∀ s, Session.rejected State.reset ≠ .running s) ∧ (∀ s, Session.created State.reset ≠ .running s) ∧
    (Session.absent.move (.create defaultConfig (Vector.replicate 80 0))).isSome = true :=
  ⟨fun _ h => (by cases h), fun _ h => (by cases h), by decide⟩

/-- A load and a strobe of a consistent CORE. -/
theorem witness_HostMovesKeepTheInvariant :
    (∀ s, (Session.created State.reset).state = some s → Inv s) ∧
    (∀ s, (Session.running State.reset).state = some s → Inv s) ∧
    ((Session.created State.reset).move (.load [0x12, 0x00])).isSome = true ∧
    ((Session.running State.reset).move (.step ⟨0, 0⟩)).isSome = true := by
  have h : Inv State.reset := ⟨by decide, rfl, rfl, fun h => absurd h (by decide)⟩
  exact ⟨fun s hs => Option.some.inj hs ▸ h, fun s hs => Option.some.inj hs ▸ h, by decide, by decide⟩

end Sys2Proof.Tests
end

section
/-!
PROOFS for 00_scope.md: the operands of a decoded word are its fields (R17, R71), and what CheckAddr admits (R14, R60).
-/

namespace Sys2Proof.Machine

/-! ### Fields of a word as numbers -/

section Fields

variable (w : Word)

/-- A run of bits of a word is a quotient and a remainder of its number. -/
theorem toNat_extractLsb'_word (start len : Nat) :
    (w.extractLsb' start len).toNat = w.toNat / 2 ^ start % 2 ^ len := by
  rw [BitVec.extractLsb'_toNat, Nat.shiftRight_eq_div_pow]

@[simp] theorem val_fieldX : (fieldX w).val = fieldValue w .x := toNat_extractLsb'_word w 8 4

@[simp] theorem val_fieldY : (fieldY w).val = fieldValue w .y := toNat_extractLsb'_word w 4 4

@[simp] theorem toNat_fieldKK : (fieldKK w).toNat = fieldValue w .kk :=
  (toNat_extractLsb'_word w 0 8).trans (by simp [fieldValue])

@[simp] theorem toNat_fieldNNN : (fieldNNN w).toNat = fieldValue w .nnn :=
  (toNat_extractLsb'_word w 0 12).trans (by simp [fieldValue])

@[simp] theorem val_fieldN : (fieldN w).val = fieldValue w .n :=
  (toNat_extractLsb'_word w 0 4).trans (by simp [fieldValue])

end Fields

/-! ### The operands the decoder gives -/

/-- Every operand of `i` is the number its field of `w` holds. -/
def OperandsFrom (w : Word) (i : Instr) : Prop := ∀ o ∈ i.operands, o.value = fieldValue w o.field

section Operands

variable {w : Word} {i : Instr}

theorem decodeGroup0_operandsFrom (h : decodeGroup0 w = some i) : OperandsFrom w i := by
  unfold decodeGroup0 at h
  split at h <;> cases h <;> simp [OperandsFrom, Instr.operands]

theorem decodeGroup8_operandsFrom (h : decodeGroup8 w = some i) : OperandsFrom w i := by
  unfold decodeGroup8 at h
  split at h <;> cases h <;> simp [OperandsFrom, Instr.operands]

theorem decodeGroupE_operandsFrom (h : decodeGroupE w = some i) : OperandsFrom w i := by
  unfold decodeGroupE at h
  split at h <;> cases h <;> simp [OperandsFrom, Instr.operands]

theorem decodeGroupF_operandsFrom (h : decodeGroupF w = some i) : OperandsFrom w i := by
  unfold decodeGroupF at h
  split at h <;> cases h <;> simp [OperandsFrom, Instr.operands]

/-- The four groups with a secondary key go by their own lemmas; each other arm names the fields it reads. -/
theorem decodeWord_operandsFrom (h : decodeWord w = some i) : OperandsFrom w i := by
  unfold decodeWord at h
  split at h
  case h_1 => exact decodeGroup0_operandsFrom h
  case h_9 => exact decodeGroup8_operandsFrom h
  case h_15 => exact decodeGroupE_operandsFrom h
  case h_16 => exact decodeGroupF_operandsFrom h
  all_goals cases h; simp [OperandsFrom, Instr.operands]

end Operands

/-- Settles O2: the decoder's extracts are the quotients and remainders of R17, group by group. -/
theorem operandsAreTheFieldsOfTheWord : Obligations.OperandsAreTheFieldsOfTheWord :=
  fun _ _ h => decodeWord_operandsFrom h

/-! ### What CheckAddr admits -/

theorem checkAddr_fault_of_le {a : Nat} (h : memSize ≤ a) : checkAddr .fault a = none :=
  if_neg (Nat.not_lt.2 h)

theorem checkAddr_fault_of_lt {a : Nat} (h : a < memSize) : checkAddr .fault a = some a := if_pos h

/-- Settles O7: `checkAddr` policy by policy; an admitted read then returns the byte at the address it admits. -/
theorem addressPolicyRefusesOrMasks : Obligations.AddressPolicyRefusesOrMasks := by
  intro s a
  refine ⟨fun hp ha => ?_, fun hp ha => ?_, fun hp => ?_⟩
  · rw [hp]
    exact checkAddr_fault_of_le ha
  · have admitted : checkAddr s.config.addrPolicy a = some a := by rw [hp]; exact checkAddr_fault_of_lt ha
    exact ⟨admitted, memRead_eq admitted⟩
  · have admitted : checkAddr s.config.addrPolicy a = some (a % 0x1000) := by rw [hp]; exact checkAddr_mask12 a
    exact ⟨admitted, memRead_eq admitted⟩

end Sys2Proof.Machine
end

section
/-!
PROOFS for 10_state.md: the state after reset (R41), and which instruction writes and which reads which part of the
state (R22, R26-R37, R52).
-/

namespace Sys2Proof.Machine

/-! ### Reset -/

/-- Unwritten memory holds the font and, after its last byte, zeros (R41). -/
theorem Memory.read_nil (a : Nat) : Memory.read [] a = if a < 80 then standardFont.getD a 0 else 0 := by
  have hread : Memory.read [] a = standardFont.getD a 0 := rfl
  have hlen : standardFont.length = 80 := rfl
  split
  case isTrue => exact hread
  case isFalse h => rw [hread, List.getD_eq_default _ _ (by omega)]

/-- Settles O23: the font by `Memory.read_nil`; every other piece is a constant of `State.reset`. -/
theorem resetHoldsTheSpecValues : Obligations.ResetHoldsTheSpecValues := by
  refine ⟨Memory.read_nil, fun r => ?_, rfl, rfl, rfl, fun j => ?_, rfl, rfl, fun c r => ?_, fun k => ?_, rfl,
    rfl, rfl, rfl⟩
  · simp [readReg, State.reset]
  · simp [State.reset]
  · simp [pixel, State.reset]
  · simp [keyDown, State.reset]

/-- A running CORE without an error record whose memory is canonical and whose framebuffer has been presented. -/
theorem inv_of_running {s : State} (hm : s.mem.wf = true) (hd : s.dirty = false) (hh : s.halted = false)
    (he : s.err = none) : Inv s where
  memCanonical := hm
  presented := hd
  errorMatches := by simpa [ErrorMatches, he] using hh
  haltedQuiet h := by simp [hh] at h

/-- Settles O25: a font table is a block of 80 bytes written inside memory, which keeps the canonical form. -/
theorem resetMeetsTheInvariant : Obligations.ResetMeetsTheInvariant := by
  refine ⟨inv_of_running rfl rfl rfl rfl, fun c font => inv_of_running ?_ rfl rfl rfl⟩
  exact Memory.wf_writeList (m := []) (by simp [memSize]) rfl

/-! ### Frames: composing them, and the frame of each shared operation -/

section ChangesOnly

variable {ps qs : List Part} {s t u : State}

theorem Unchanged.refl (p : Part) (s : State) : Unchanged p s s := by cases p <;> simp [Unchanged]

theorem Unchanged.trans {p : Part} (h : Unchanged p s t) (h' : Unchanged p t u) : Unchanged p s u := by
  cases p <;> simp_all [Unchanged]

theorem ChangesOnly.refl (ps : List Part) (s : State) : ChangesOnly ps s s := fun p _ => Unchanged.refl p s

theorem ChangesOnly.trans (h : ChangesOnly ps s t) (h' : ChangesOnly qs t u) : ChangesOnly (ps ++ qs) s u := by
  intro p hp
  obtain ⟨hps, hqs⟩ : p ∉ ps ∧ p ∉ qs := by simpa using hp
  exact (h p hps).trans (h' p hqs)

theorem ChangesOnly.mono (h : ChangesOnly ps s t) (hsub : ps ⊆ qs) : ChangesOnly qs s t :=
  fun p hp => h p fun hps => hp (hsub hps)

/-- An instruction that may raise an error: it changes the status alone, or what its effect changes. -/
theorem ite_raiseAt_changesOnly {c : Prop} [Decidable c] {e : ErrorCause} {a : Option Nat} (h : ChangesOnly ps s t) :
    ChangesOnly (.status :: ps) s (if c then raiseAt e a s else t) := by
  obtain ⟨-, -, raised⟩ := raiseAt_raised s e a
  split
  · exact raised.mono (by simp)
  · exact h.mono (by simp)

theorem checkAll_changesOnly {as : List Nat} {body : State → State} (h : ChangesOnly ps s (body s)) :
    ChangesOnly (.status :: ps) s (checkAll as body s) := by
  obtain ⟨-, hok⟩ | ⟨a, -, hbad⟩ := checkAll_cases as body s
  · exact hok ▸ h.mono (by simp)
  · obtain ⟨-, -, raised⟩ := raiseAt_raised s .memoryOutOfRange (some a)
    exact hbad ▸ raised.mono (by simp)

theorem advance_changesOnly {n : Word} : ChangesOnly [.pc] s (advance n s) := by
  intro p hp; cases p <;> simp_all [Unchanged]

theorem next2_changesOnly : ChangesOnly [.pc] s (next2 s) := advance_changesOnly

theorem skipIf_changesOnly {c : Bool} : ChangesOnly [.pc] s (skipIf c s) := skipIf_eq c s ▸ advance_changesOnly

theorem jumpTo_changesOnly {a : Word} : ChangesOnly [.pc] s (jumpTo a s) := by
  intro p hp; cases p <;> simp_all [Unchanged]

theorem writeReg_changesOnly {x : Reg} {b : Byte} : ChangesOnly [.regs] s (writeReg x b s) := by
  intro p hp; cases p <;> simp_all [Unchanged]

theorem writeResultAndFlag_changesOnly {x : Reg} {r f : Byte} :
    ChangesOnly [.regs] s (writeResultAndFlag x r f s) := by
  intro p hp; cases p <;> simp_all [Unchanged]

theorem loadRegs_changesOnly {a : Nat} {x : Reg} : ChangesOnly [.regs] s (loadRegs a x s) := by
  intro p hp; cases p <;> simp_all [Unchanged]

theorem writeI_changesOnly {a : Word} : ChangesOnly [.index] s (writeI a s) := by
  intro p hp; cases p <;> simp_all [Unchanged]

theorem pushReturn_changesOnly {a : Word} : ChangesOnly [.stack] s (pushReturn a s) := by
  intro p hp; cases p <;> simp_all [Unchanged]

theorem popReturn_changesOnly : ChangesOnly [.stack] s (popReturn s) := by
  intro p hp; cases p <;> simp_all [Unchanged]

theorem memWriteList_changesOnly {a : Nat} {bs : List Byte} : ChangesOnly [.memory] s (memWriteList a bs s) := by
  intro p hp; cases p <;> simp_all [Unchanged]

theorem writeFb_changesOnly {f : Framebuffer} : ChangesOnly [.framebuffer, .dirty] s (writeFb f s) := by
  intro p hp; cases p <;> simp_all [Unchanged]

theorem writeDT_changesOnly {b : Byte} : ChangesOnly [.delay] s (writeDT b s) := by
  intro p hp; cases p <;> simp_all [Unchanged]

theorem writeST_changesOnly {b : Byte} : ChangesOnly [.sound] s (writeST b s) := by
  intro p hp; cases p <;> simp_all [Unchanged]

theorem countDraw_changesOnly : ChangesOnly [.draws] s (countDraw s) := by
  intro p hp; cases p <;> simp_all [Unchanged]

theorem keySkip_changesOnly {x : Reg} {down : Bool} : ChangesOnly [.status, .pc] s (keySkip x down s) := by
  unfold keySkip
  rw [← ite_not]
  exact ite_raiseAt_changesOnly skipIf_changesOnly

theorem waitKey_changesOnly {x : Reg} {pressed : List Nat} :
    ChangesOnly [.draws, .regs, .pc] s (waitKey x pressed s) := by
  cases pressed with
  | nil => exact ChangesOnly.refl _ s
  | cons k ks => exact countDraw_changesOnly.trans (writeReg_changesOnly.trans advance_changesOnly)

end ChangesOnly

/-! ### What each instruction may change -/

/-- The parts of the state an instruction may change, the status where it can raise an error. -/
def writtenParts : Instr → List Part
  | .cls        => [.framebuffer, .dirty, .pc]
  | .ret        => [.status, .stack, .pc]
  | .jp _       => [.pc]
  | .call _     => [.status, .stack, .pc]
  | .seImm _ _  => [.pc]
  | .sneImm _ _ => [.pc]
  | .seReg _ _  => [.pc]
  | .ldImm _ _  => [.regs, .pc]
  | .addImm _ _ => [.regs, .pc]
  | .ldReg _ _  => [.regs, .pc]
  | .orReg _ _  => [.regs, .pc]
  | .andReg _ _ => [.regs, .pc]
  | .xorReg _ _ => [.regs, .pc]
  | .addReg _ _ => [.regs, .pc]
  | .subReg _ _ => [.regs, .pc]
  | .shr _      => [.regs, .pc]
  | .subnReg _ _ => [.regs, .pc]
  | .shl _      => [.regs, .pc]
  | .sneReg _ _ => [.pc]
  | .ldI _      => [.index, .pc]
  | .jpV0 _     => [.pc]
  | .rnd _ _    => [.regs, .pc]
  | .drw _ _ _  => [.status, .regs, .framebuffer, .dirty, .pc]
  | .skp _      => [.status, .pc]
  | .sknp _     => [.status, .pc]
  | .ldVxDt _   => [.regs, .pc]
  | .ldVxK _    => [.draws, .regs, .pc]
  | .ldDtVx _   => [.delay, .pc]
  | .ldStVx _   => [.sound, .pc]
  | .addIVx _   => [.index, .pc]
  | .ldFVx _    => [.index, .pc]
  | .ldBVx _    => [.status, .memory, .pc]
  | .stRegs _   => [.status, .memory, .pc]
  | .ldRegs _   => [.status, .regs, .pc]

section Writers

variable {i : Instr} {s t : State}

/-- The frame of every instruction: the frames of the operations its meaning is made of. -/
theorem exec_changesOnly (h : exec i s = .next t) : ChangesOnly (writtenParts i) s t := by
  cases i
  all_goals cases h
  case cls => exact writeFb_changesOnly.trans next2_changesOnly
  case ret => exact ite_raiseAt_changesOnly (popReturn_changesOnly.trans jumpTo_changesOnly)
  case call => exact ite_raiseAt_changesOnly (pushReturn_changesOnly.trans jumpTo_changesOnly)
  case jp | jpV0 => exact jumpTo_changesOnly
  case seImm | sneImm | seReg | sneReg => exact skipIf_changesOnly
  case ldImm | addImm | ldReg | orReg | andReg | xorReg | rnd | ldVxDt =>
    exact writeReg_changesOnly.trans next2_changesOnly
  case addReg | subReg | shr | subnReg | shl =>
    exact writeResultAndFlag_changesOnly.trans next2_changesOnly
  case ldI | addIVx | ldFVx => exact writeI_changesOnly.trans next2_changesOnly
  case drw =>
    exact checkAll_changesOnly
      (writeReg_changesOnly.trans (writeFb_changesOnly.trans next2_changesOnly))
  case skp | sknp => exact keySkip_changesOnly
  case ldVxK => exact waitKey_changesOnly
  case ldDtVx => exact writeDT_changesOnly.trans next2_changesOnly
  case ldStVx => exact writeST_changesOnly.trans next2_changesOnly
  case ldBVx | stRegs =>
    exact checkAll_changesOnly (memWriteList_changesOnly.trans next2_changesOnly)
  case ldRegs => exact checkAll_changesOnly (loadRegs_changesOnly.trans next2_changesOnly)

theorem stack_mem_writtenParts : .stack ∈ writtenParts i ↔ writesStack i = true := by
  cases i <;> simp [writtenParts, writesStack]

theorem index_mem_writtenParts : .index ∈ writtenParts i ↔ writesIndex i = true := by
  cases i <;> simp [writtenParts, writesIndex]

theorem memory_mem_writtenParts : .memory ∈ writtenParts i ↔ writesMemory i = true := by
  cases i <;> simp [writtenParts, writesMemory]

theorem framebuffer_mem_writtenParts : .framebuffer ∈ writtenParts i ↔ writesDisplay i = true := by
  cases i <;> simp [writtenParts, writesDisplay]

theorem dirty_mem_writtenParts : .dirty ∈ writtenParts i ↔ writesDisplay i = true := by
  cases i <;> simp [writtenParts, writesDisplay]

theorem delay_mem_writtenParts : .delay ∈ writtenParts i ↔ ∃ x, i = .ldDtVx x := by
  cases i <;> simp [writtenParts]

theorem sound_mem_writtenParts : .sound ∈ writtenParts i ↔ ∃ x, i = .ldStVx x := by
  cases i <;> simp [writtenParts]

theorem draws_mem_writtenParts : .draws ∈ writtenParts i ↔ ∃ x, i = .ldVxK x := by
  cases i <;> simp [writtenParts]

/-- The parts only the cycle writes, and the parameters, which nothing writes. -/
theorem not_mem_writtenParts {p : Part} (hp : p ∈ [.keys, .word, .pulses, .inputs, .config]) :
    p ∉ writtenParts i := by
  revert p
  cases i <;> simp [writtenParts]

end Writers

/-- Settles O28: the frame of the instruction, with the parts it may write read off its list. -/
theorem onlyNamedInstructionsWrite : Obligations.OnlyNamedInstructionsWrite := by
  intro i s t h
  have frame := exec_changesOnly h
  refine ⟨fun hw => frame _ ?_, fun hw => frame _ ?_, fun hw => frame _ ?_, fun hw => frame _ ?_,
    fun hw => frame _ ?_, fun hw => ⟨frame _ ?_, frame _ ?_⟩, fun hw => frame _ ?_, frame _ ?_, frame _ ?_,
    frame _ ?_, frame _ ?_, frame _ ?_⟩
  · simp [stack_mem_writtenParts, hw]
  · simp [index_mem_writtenParts, hw]
  · simp [delay_mem_writtenParts, hw]
  · simp [sound_mem_writtenParts, hw]
  · simp [memory_mem_writtenParts, hw]
  · simp [framebuffer_mem_writtenParts, hw]
  · simp [dirty_mem_writtenParts, hw]
  · simp [draws_mem_writtenParts, hw]
  all_goals exact not_mem_writtenParts (by simp)

/-! ### Registers -/

section KeepsRegs

variable {xs : List Reg} {s t : State}

theorem checkAll_keepsRegs {as : List Nat} {body : State → State} (h : KeepsRegs xs s (body s)) :
    KeepsRegs xs s (checkAll as body s) := by
  obtain ⟨-, hok⟩ | ⟨a, -, hbad⟩ := checkAll_cases as body s
  · exact hok ▸ h
  · exact hbad ▸ fun r _ => rfl

theorem KeepsRegs.next2 (h : KeepsRegs xs s t) : KeepsRegs xs s (next2 t) :=
  fun r hr => (readReg_next2 r t).trans (h r hr)

theorem KeepsRegs.advance {n : Word} (h : KeepsRegs xs s t) : KeepsRegs xs s (advance n t) :=
  fun r hr => (readReg_advance r n t).trans (h r hr)

theorem KeepsRegs.writeFb {f : Framebuffer} (h : KeepsRegs xs s t) : KeepsRegs xs s (writeFb f t) :=
  fun r hr => (readReg_writeFb r f t).trans (h r hr)

theorem writeReg_keepsRegs {x : Reg} {b : Byte} : KeepsRegs [x] s (writeReg x b s) := by
  intro r hr
  rw [readReg_writeReg, if_neg (by simpa using hr)]

theorem waitKey_keepsRegs {x : Reg} {pressed : List Nat} : KeepsRegs [x] s (waitKey x pressed s) := by
  cases pressed with
  | nil => exact fun _ _ => rfl
  | cons k ks =>
    refine KeepsRegs.advance fun r hr => ?_
    exact (writeReg_keepsRegs r hr).trans (readReg_countDraw s r)

theorem loadRegs_keepsRegs {a : Nat} {x : Reg} :
    KeepsRegs (writtenRegs (.ldRegs x)) s (loadRegs a x s) := by
  intro r hr
  have hx : ¬ r ≤ x := by simpa [writtenRegs] using hr
  rw [readReg_loadRegs, if_neg hx]

end KeepsRegs

/-- Settles O27: the writers of a register by the operation they write with; the others have the frame of O28. -/
theorem onlyNamedRegistersAreWritten : Obligations.OnlyNamedRegistersAreWritten := by
  intro i s t h
  cases i
  case ldImm | addImm | ldReg | orReg | andReg | xorReg | rnd | ldVxDt =>
    cases h
    exact writeReg_keepsRegs.next2
  case addReg x _ | subReg x _ | shr x | subnReg x _ | shl x =>
    cases h
    obtain ⟨-, -, -, keeps, -, -⟩ := writeResultAndFlag_writes s x _ _
    exact keeps
  case drw =>
    cases h
    exact checkAll_keepsRegs writeReg_keepsRegs.writeFb.next2
  case ldVxK =>
    cases h
    exact waitKey_keepsRegs
  case ldRegs =>
    cases h
    exact checkAll_keepsRegs loadRegs_keepsRegs.next2
  all_goals exact fun r _ => exec_changesOnly h .regs (by simp [writtenParts]) r

/-! ### Stack[0] and the parameters -/

/-- CALL writes the entry above SP, never the lowest one (R27). -/
theorem pushReturn_stack_zero (a : Word) {s : State} (h : s.sp ≠ 15) :
    (pushReturn a s).stack[0] = s.stack[0] := by
  have above : (s.sp + 1).val ≠ 0 := by
    revert h
    generalize s.sp = sp
    revert sp
    decide
  exact Vector.getElem_set_ne (s.sp + 1).isLt (by decide) above

section StackAndConfig

variable {i : Instr} {s t : State}

/-- Only CALL writes an entry, and not this one; RET keeps the entry it pops (R32). -/
theorem exec_stack_zero (h : exec i s = .next t) : t.stack[0] = s.stack[0] := by
  cases i
  case call nnn =>
    cases h
    split
    · rfl
    · exact pushReturn_stack_zero _ ‹_›
  case ret =>
    cases h
    split <;> rfl
  all_goals
    obtain ⟨-, hstack⟩ := exec_changesOnly h .stack (by simp [writtenParts])
    rw [hstack]

theorem exec_config (h : exec i s = .next t) : t.config = s.config :=
  exec_changesOnly h .config (not_mem_writtenParts (by simp))

end StackAndConfig

@[simp] theorem finish_stack (s : State) : (finish s).stack = s.stack := by unfold finish; split <;> rfl

@[simp] theorem finish_config (s : State) : (finish s).config = s.config := by unfold finish; split <;> rfl

/-- Settles O29: outcome by outcome of a step; only an executed instruction could write either. -/
theorem stepsKeepStackEntryZeroAndParameters : Obligations.StepsKeepStackEntryZeroAndParameters := by
  intro s t h
  obtain ⟨-, rfl⟩ | ⟨-, a, -, rfl⟩ | ⟨-, w, -, -, rfl⟩ | ⟨-, w, i, u, -, -, hu, rfl⟩ := step_cases h
  case inr.inr.inr => simp [exec_stack_zero hu, exec_config hu]
  all_goals simp

/-! ### The readers of what the host presents (R33, R111) -/

/-- The key snapshot, the random byte and the coming inputs replaced, each by a function of its old value. -/
def mapPorts (k : BitVec 16 → BitVec 16) (b : Byte → Byte) (l : List PortInput → List PortInput)
    (s : State) : State :=
  { s with keys := k s.keys, rndIn := b s.rndIn, inputs := l s.inputs }

section MapPorts

variable (k : BitVec 16 → BitVec 16) (b : Byte → Byte) (l : List PortInput → List PortInput) (s : State)

@[simp] theorem mapPorts_keys : (mapPorts k b l s).keys = k s.keys := rfl
@[simp] theorem mapPorts_rndIn : (mapPorts k b l s).rndIn = b s.rndIn := rfl
@[simp] theorem mapPorts_i : (mapPorts k b l s).i = s.i := rfl
@[simp] theorem mapPorts_sp : (mapPorts k b l s).sp = s.sp := rfl
@[simp] theorem mapPorts_config : (mapPorts k b l s).config = s.config := rfl
@[simp] theorem readReg_mapPorts (x : Reg) : readReg x (mapPorts k b l s) = readReg x s := rfl

theorem next2_mapPorts : next2 (mapPorts k b l s) = mapPorts k b l (next2 s) := rfl

theorem skipIf_mapPorts (c : Bool) : skipIf c (mapPorts k b l s) = mapPorts k b l (skipIf c s) := by
  cases c <;> rfl

theorem writeResultAndFlag_mapPorts (x : Reg) (r f : Byte) :
    writeResultAndFlag x r f (mapPorts k b l s) = mapPorts k b l (writeResultAndFlag x r f s) := by
  unfold writeResultAndFlag
  rw [mapPorts_config]
  split <;> rfl

theorem memWrite_mapPorts (a : Nat) (c : Byte) :
    memWrite a c (mapPorts k b l s) = mapPorts k b l (memWrite a c s) := by
  unfold memWrite
  rw [mapPorts_config]
  split <;> rfl

theorem memWriteList_mapPorts (a : Nat) (bs : List Byte) :
    memWriteList a bs (mapPorts k b l s) = mapPorts k b l (memWriteList a bs s) := by
  induction bs generalizing a s with
  | nil => rfl
  | cons c bs ih => rw [memWriteList, memWrite_mapPorts, ih, memWriteList]

theorem countDraw_mapPorts : countDraw (mapPorts k b l s) = mapPorts k b l (countDraw s) := by
  unfold countDraw
  rw [mapPorts_config]
  split <;> rfl

theorem loadRegs_mapPorts (a : Nat) (x : Reg) :
    loadRegs a x (mapPorts k b l s) = mapPorts k b l (loadRegs a x s) := by
  unfold loadRegs mapPorts
  rfl

theorem waitKey_mapPorts (x : Reg) (pressed : List Nat) :
    waitKey x pressed (mapPorts k b l s) = mapPorts k b l (waitKey x pressed s) := by
  cases pressed with
  | nil => rfl
  | cons key keys => rw [waitKey, countDraw_mapPorts]; rfl

variable {k b l s}

theorem ite_raiseAt_mapPorts {c : Prop} [Decidable c] {e : ErrorCause} {a : Option Nat} {t t' : State}
    (h : t' = mapPorts k b l t) :
    (if c then raiseAt e a (mapPorts k b l s) else t') = mapPorts k b l (if c then raiseAt e a s else t) := by
  split
  · rfl
  · exact h

theorem checkAll_mapPorts (as : List Nat) {body : State → State}
    (h : body (mapPorts k b l s) = mapPorts k b l (body s)) :
    checkAll as body (mapPorts k b l s) = mapPorts k b l (checkAll as body s) := by
  unfold checkAll
  rw [mapPorts_config]
  split
  · rfl
  · exact h

theorem keySkip_mapPorts (x : Reg) (down : Bool) (hk : k s.keys = s.keys) :
    keySkip x down (mapPorts k b l s) = mapPorts k b l (keySkip x down s) := by
  unfold keySkip
  rw [readReg_mapPorts, mapPorts_keys, hk]
  split
  · exact skipIf_mapPorts ..
  · rfl

/-- Every instruction carries what the host presents through, and none reads it but the three key readers the snapshot
and RND the random byte. -/
theorem exec_mapPorts (i : Instr) (hk : readsKeys i = true → k s.keys = s.keys)
    (hb : ∀ x kk, i = .rnd x kk → b s.rndIn = s.rndIn) :
    exec i (mapPorts k b l s) = mapNext (mapPorts k b l) (exec i s) := by
  cases i
  case ret => exact congrArg Host.Outcome.next (ite_raiseAt_mapPorts (c := s.sp = 0) rfl)
  case call => exact congrArg Host.Outcome.next (ite_raiseAt_mapPorts (c := s.sp = 15) rfl)
  case seImm | sneImm | seReg | sneReg => exact congrArg Host.Outcome.next (skipIf_mapPorts ..)
  case addReg | subReg | shr | subnReg | shl =>
    exact congrArg (fun t => Host.Outcome.next (next2 t)) (writeResultAndFlag_mapPorts ..)
  case rnd x kk =>
    simp only [exec, execRnd, mapNext, mapPorts_rndIn, hb x kk rfl]
    rfl
  case skp | sknp => exact congrArg Host.Outcome.next (keySkip_mapPorts _ _ (hk rfl))
  case ldVxK =>
    simp only [exec, execLdVxK, mapNext, mapPorts_keys, hk rfl, waitKey_mapPorts]
  case drw => exact congrArg Host.Outcome.next (checkAll_mapPorts _ rfl)
  case ldBVx | stRegs =>
    exact congrArg Host.Outcome.next (checkAll_mapPorts _ (congrArg next2 (memWriteList_mapPorts ..)))
  case ldRegs =>
    exact congrArg Host.Outcome.next (checkAll_mapPorts _ (by rw [mapPorts_i, loadRegs_mapPorts, next2_mapPorts]))
  all_goals rfl

end MapPorts

/-- Settles O31: `exec_mapPorts` for a change of the key snapshot alone. -/
theorem onlyKeyInstructionsReadKeys : Obligations.OnlyKeyInstructionsReadKeys := by
  intro i ks s hi
  exact exec_mapPorts (k := fun _ => ks) (b := id) (l := id) i (fun hr => by simp [hi] at hr) (fun _ _ _ => rfl)

end Sys2Proof.Machine
end

section
/-!
PROOFS for 20_memory.md: reads against writes of a byte (R63), and stored bytes against fetches (R50, R64).
-/

namespace Sys2Proof.Machine

/-! ### One byte written -/

theorem memWrite_changesOnly {a : Nat} {b : Byte} {s : State} : ChangesOnly [.memory] s (memWrite a b s) :=
  memWriteList_changesOnly (bs := [b])

/-- An access that reaches the address of a write sees the byte written, any other access sees none of it. -/
theorem memRead_memWrite {a c e : Nat} {b : Byte} {s : State} (hm : s.mem.wf = true)
    (ha : checkAddr s.config.addrPolicy a = some e) :
    memRead c (memWrite a b s) = if checkAddr s.config.addrPolicy c = some e then b else memRead c s := by
  cases hc : checkAddr s.config.addrPolicy c with
  | none => simp [memRead, hc]
  | some k =>
    have reached : checkAddr (memWrite a b s).config.addrPolicy c = some k := by rw [memWrite_config, hc]
    rw [memRead_eq reached, memRead_eq hc, memWrite_read hm, ha]
    simp only [Option.some.injEq, eq_comm]

/-- Settles O8: the two cases of a read after a write are the branches of `memRead_memWrite`. -/
theorem readsReturnTheLastWrite : Obligations.ReadsReturnTheLastWrite := by
  intro s a c e b hm ha
  refine ⟨fun hc => ?_, fun hc => ?_, memWrite_wf hm, memWrite_changesOnly⟩
  · rw [memRead_memWrite hm ha, if_pos hc]
  · rw [memRead_memWrite hm ha, if_neg hc]

/-! ### Bytes stored and then fetched -/

/-- LD [I],Vx on an admitted block (R175). -/
theorem exec_stRegs_of_not_blockOutside {x : Reg} {s : State} (h : ¬ BlockOutside (x.val + 1) s) :
    exec (.stRegs x) s = .next (next2 (memWriteList s.i.toNat (regsUpTo x s) s)) :=
  congrArg Host.Outcome.next (checkAll_of_not_blockOutside h)

/-- The byte LD [I],Vx leaves at the address of I + j is V[j]. -/
theorem exec_stRegs_read {x j : Reg} {s t : State} {e : Nat} (hm : s.mem.wf = true)
    (hin : ¬ BlockOutside (x.val + 1) s) (ht : exec (.stRegs x) s = .next t) (hj : j ≤ x)
    (he : checkAddr s.config.addrPolicy (s.i.toNat + j.val) = some e) : t.mem.read e = readReg j s := by
  rw [exec_stRegs_of_not_blockOutside hin] at ht
  cases ht
  have hlen : j.val < (regsUpTo x s).length := by rw [length_regsUpTo]; exact Nat.lt_succ_of_le hj
  have hfit : (regsUpTo x s).length ≤ memSize := by rw [length_regsUpTo, memSize]; omega
  rw [next2_mem, memWriteList_read_hit hm hfit hlen he, getElem_regsUpTo]

/-- Settles O47: the two addresses of a fetch at I are those of bytes 0 and 1 of the stored block. -/
theorem storesAreSeenByFetch : Obligations.StoresAreSeenByFetch := by
  intro s t u x hm hin hx ht hmem hcfg hpc
  obtain ⟨hi, h0⟩ := checkAddr_of_not_blockOutside (j := 0) hin (by omega)
  obtain ⟨lo, h1⟩ := checkAddr_of_not_blockOutside (j := 1) hin (by omega)
  have hconfig : u.config = s.config := hcfg.trans (exec_config ht)
  have fetched : fetch u = .ok (wordOfBytes (t.mem.read hi) (t.mem.read lo)) := by
    rw [← hmem]
    exact fetch_of_checkAddr (by rw [hconfig, hpc]; exact h0) (by rw [hconfig, hpc]; exact h1)
  rw [fetched, exec_stRegs_read (j := 0) hm hin ht (Fin.zero_le x) h0,
    exec_stRegs_read (j := 1) hm hin ht hx h1]

end Sys2Proof.Machine
end

section
/-!
PROOFS for 30_encoding.md: the decoder inverts the encoder (R70, R72), reads only the significant bits (R77), and agrees
with the opcode map (R74) and its unlisted keys (R76).
-/

namespace Sys2Proof.Machine

/-! ### Decoding an encoding -/

/-- The dispatch reads the keys the encoder packs, and the arm it reaches reads the packed operands. -/
theorem decodeWord_encode (i : Instr) : decodeWord (encode i) = some i := by
  cases i
  case cls | ret => rfl
  case jp | call | ldI | jpV0 | seImm | sneImm | ldImm | addImm | rnd | seReg | sneReg | drw =>
    simp [encode, decodeWord]
  case skp | sknp => simp [encode, decodeWord, decodeGroupE]
  case ldVxDt | ldVxK | ldDtVx | ldStVx | addIVx | ldFVx | ldBVx | stRegs | ldRegs =>
    simp [encode, decodeWord, decodeGroupF]
  all_goals simp [encode, decodeWord, decodeGroup8]

theorem decodeBytes_encodeBytes (i : Instr) (rest : List Byte) :
    decodeBytes (encodeBytes i ++ rest) = .instr i rest := by
  simp [encodeBytes, decodeBytes, decodeWord_encode]

/-- Settles O1: `decodeWord_encode` for every instruction; the operand types leave no ill-formed one. -/
theorem decodeInvertsEncode : Obligations.DecodeInvertsEncode :=
  fun i rest _ => ⟨decodeWord_encode i, decodeBytes_encodeBytes i rest⟩

/-! ### Words as packed fields -/

section Packed

variable {w : Word} {h : BitVec 4} {x y : Reg} {n : RowCount}

theorem and_FFFF : w &&& 0xFFFF#16 = w := BitVec.and_allOnes

/-- The significant bits of SE and SNE Vx,Vy. -/
theorem packXYN_and_FFF0 : packXYN h x y n &&& 0xFFF0#16 = packXYN h x y 0 := by
  have mask : 0xFFF0#16 = BitVec.allOnes 4 ++ BitVec.allOnes 4 ++ BitVec.allOnes 4 ++ 0#4 := rfl
  rw [mask, packXYN, BitVec.and_append, BitVec.and_append, BitVec.and_append, BitVec.and_allOnes,
    BitVec.and_allOnes, BitVec.and_allOnes, BitVec.and_zero]
  rfl

/-- The significant bits of SHR and SHL. -/
theorem packXYN_and_FF0F : packXYN h x y n &&& 0xFF0F#16 = packXYN h x 0 n := by
  have mask : 0xFF0F#16 = BitVec.allOnes 4 ++ BitVec.allOnes 4 ++ 0#4 ++ BitVec.allOnes 4 := rfl
  rw [mask, packXYN, BitVec.and_append, BitVec.and_append, BitVec.and_append, BitVec.and_allOnes,
    BitVec.and_allOnes, BitVec.and_allOnes, BitVec.and_zero]
  rfl

theorem and_FFF0 (w : Word) : w &&& 0xFFF0#16 = packXYN (highNibble w) (fieldX w) (fieldY w) 0 := by
  rw [← packXYN_and_FFF0, packXYN_fields]

theorem and_FF0F (w : Word) : w &&& 0xFF0F#16 = packXYN (highNibble w) (fieldX w) 0 (fieldN w) := by
  rw [← packXYN_and_FF0F, packXYN_fields]

theorem keys_FFF0 (e : w &&& 0xFFF0#16 = packXYN h x y n) : highNibble w = h ∧ fieldX w = x ∧ fieldY w = y := by
  rw [and_FFF0] at e
  exact ⟨by simpa using congrArg highNibble e, by simpa using congrArg fieldX e, by simpa using congrArg fieldY e⟩

theorem keys_FF0F (e : w &&& 0xFF0F#16 = packXYN h x y n) :
    highNibble w = h ∧ fieldX w = x ∧ lowNibble w = BitVec.ofFin n := by
  rw [and_FF0F] at e
  refine ⟨by simpa using congrArg highNibble e, by simpa using congrArg fieldX e, ?_⟩
  have low : fieldN w = n := by simpa using congrArg fieldN e
  exact congrArg BitVec.ofFin low

end Packed

/-! ### The bits an instruction's decoding reads (R77) -/

/-- The word is the encoder's outside the bits that `i` ignores. -/
def Agrees (w : Word) (i : Instr) : Prop := w &&& significantMask i = encode i &&& significantMask i

section Agrees

variable {w : Word} {i : Instr}

theorem decodeWord_of_agrees (h : Agrees w i) : decodeWord w = some i := by
  unfold Agrees at h
  cases i
  case cls | ret =>
    obtain ⟨high, low⟩ := keys_F00F h
    simp [decodeWord, decodeGroup0, high, low, encode, significantMask]
  case seReg | sneReg =>
    obtain ⟨high, hx, hy⟩ := keys_FFF0 (h.trans packXYN_and_FFF0)
    simp [decodeWord, high, hx, hy]
  case shr | shl =>
    obtain ⟨high, hx, low⟩ := keys_FF0F (h.trans packXYN_and_FF0F)
    simp [decodeWord, decodeGroup8, high, hx, low]
  all_goals
    obtain rfl : w = encode _ := and_FFFF.symm.trans (h.trans and_FFFF)
    exact decodeWord_encode _

theorem agrees_of_encode_eq (h : encode i = w) : Agrees w i := h ▸ rfl

/-- A key of the dispatch as a vector. -/
theorem eq_ofNat_of_toNat_eq {len k : Nat} {b : BitVec len} (h : b.toNat = k) : b = BitVec.ofNat len k :=
  (BitVec.toNat_eq_nat.1 h).2

section Keyed

variable {k m : Nat}

theorem packNNN_of_key (hk : (highNibble w).toNat = k) : packNNN (BitVec.ofNat 4 k) (fieldNNN w) = w := by
  rw [← eq_ofNat_of_toNat_eq hk, packNNN_fields]

theorem packXKK_of_key (hk : (highNibble w).toNat = k) :
    packXKK (BitVec.ofNat 4 k) (fieldX w) (fieldKK w) = w := by
  rw [← eq_ofNat_of_toNat_eq hk, packXKK_fields]

theorem packXYN_of_key (hk : (highNibble w).toNat = k) :
    packXYN (BitVec.ofNat 4 k) (fieldX w) (fieldY w) (fieldN w) = w := by
  rw [← eq_ofNat_of_toNat_eq hk, packXYN_fields]

theorem packXKK_of_keys (hk : (highNibble w).toNat = k) (hm : (lowByte w).toNat = m) :
    packXKK (BitVec.ofNat 4 k) (fieldX w) (BitVec.ofNat 8 m) = w := by
  rw [← eq_ofNat_of_toNat_eq hm]
  exact packXKK_of_key hk

theorem packXYN_of_keys (hk : (highNibble w).toNat = k) (hm : (lowNibble w).toNat = m) :
    packXYN (BitVec.ofNat 4 k) (fieldX w) (fieldY w) (BitVec.ofNat 4 m).toFin = w := by
  rw [← eq_ofNat_of_toNat_eq hm]
  exact packXYN_of_key hk

end Keyed

theorem decodeGroup0_agrees (hk : (highNibble w).toNat = 0x0) (h : decodeGroup0 w = some i) : Agrees w i := by
  unfold decodeGroup0 at h
  split at h <;> cases h
  all_goals
    refine (and_F00F w).trans ?_
    rw [eq_ofNat_of_toNat_eq hk, eq_ofNat_of_toNat_eq ‹(lowNibble w).toNat = _›]
    rfl

theorem decodeGroup8_agrees (hk : (highNibble w).toNat = 0x8) (h : decodeGroup8 w = some i) : Agrees w i := by
  unfold decodeGroup8 at h
  split at h <;> cases h
  case h_7 | h_9 =>
    have high := eq_ofNat_of_toNat_eq hk
    have low : fieldN w = _ := congrArg BitVec.toFin (eq_ofNat_of_toNat_eq ‹(lowNibble w).toNat = _›)
    simp [Agrees, encode, significantMask, and_FF0F, high, low]
  all_goals exact agrees_of_encode_eq (packXYN_of_keys hk ‹_›)

theorem decodeGroupE_agrees (hk : (highNibble w).toNat = 0xE) (h : decodeGroupE w = some i) : Agrees w i := by
  unfold decodeGroupE at h
  split at h <;> cases h
  all_goals exact agrees_of_encode_eq (packXKK_of_keys hk ‹_›)

theorem decodeGroupF_agrees (hk : (highNibble w).toNat = 0xF) (h : decodeGroupF w = some i) : Agrees w i := by
  unfold decodeGroupF at h
  split at h <;> cases h
  all_goals exact agrees_of_encode_eq (packXKK_of_keys hk ‹_›)

/-- Four groups go by their own lemmas; the last arm is reached by the high nibble that the fifteen before it leave. -/
theorem decodeWord_agrees (h : decodeWord w = some i) : Agrees w i := by
  unfold decodeWord at h
  split at h
  case h_1 => exact decodeGroup0_agrees ‹_› h
  case h_9 => exact decodeGroup8_agrees ‹_› h
  case h_15 => exact decodeGroupE_agrees ‹_› h
  case h_16 => exact decodeGroupF_agrees (by have := (highNibble w).isLt; grind) h
  all_goals cases h
  case h_6 | h_10 =>
    have high := eq_ofNat_of_toNat_eq ‹(highNibble w).toNat = _›
    simp [Agrees, encode, significantMask, and_FFF0, high]
  case h_2 | h_3 | h_11 | h_12 => exact agrees_of_encode_eq (packNNN_of_key ‹_›)
  case h_14 => exact agrees_of_encode_eq (packXYN_of_key ‹_›)
  all_goals exact agrees_of_encode_eq (packXKK_of_key ‹_›)

/-- The words of an instruction are those that agree with its encoding. -/
theorem decodeWord_eq_some_iff : decodeWord w = some i ↔ Agrees w i := ⟨decodeWord_agrees, decodeWord_of_agrees⟩

end Agrees

/-- Settles O3: `decodeWord_eq_some_iff` at the word and at the one that agrees with it. -/
theorem ignoredBitsSelectTheSameInstruction : Obligations.IgnoredBitsSelectTheSameInstruction := by
  intro w i h
  have agrees := decodeWord_eq_some_iff.1 h
  exact ⟨agrees.symm, fun w' hw' => decodeWord_eq_some_iff.2 (hw'.trans agrees)⟩

/-! ### The opcode map (R74) -/

section OpcodeMap

variable {w : Word} {i : Instr} {r : OpcodeRow}

theorem encode_selected : (i : Instr) → Laws.Encoding.Statement i
  | .cls         => Laws.Encoding.cls
  | .ret         => Laws.Encoding.ret
  | .jp nnn      => Laws.Encoding.jp nnn
  | .call nnn    => Laws.Encoding.call nnn
  | .seImm x k   => Laws.Encoding.seImm x k
  | .sneImm x k  => Laws.Encoding.sneImm x k
  | .seReg x y   => Laws.Encoding.seReg x y
  | .ldImm x k   => Laws.Encoding.ldImm x k
  | .addImm x k  => Laws.Encoding.addImm x k
  | .ldReg x y   => Laws.Encoding.ldReg x y
  | .orReg x y   => Laws.Encoding.orReg x y
  | .andReg x y  => Laws.Encoding.andReg x y
  | .xorReg x y  => Laws.Encoding.xorReg x y
  | .addReg x y  => Laws.Encoding.addReg x y
  | .subReg x y  => Laws.Encoding.subReg x y
  | .shr x       => Laws.Encoding.shr x
  | .subnReg x y => Laws.Encoding.subnReg x y
  | .shl x       => Laws.Encoding.shl x
  | .sneReg x y  => Laws.Encoding.sneReg x y
  | .ldI nnn     => Laws.Encoding.ldI nnn
  | .jpV0 nnn    => Laws.Encoding.jpV0 nnn
  | .rnd x k     => Laws.Encoding.rnd x k
  | .drw x y n   => Laws.Encoding.drw x y n
  | .skp x       => Laws.Encoding.skp x
  | .sknp x      => Laws.Encoding.sknp x
  | .ldVxDt x    => Laws.Encoding.ldVxDt x
  | .ldVxK x     => Laws.Encoding.ldVxK x
  | .ldDtVx x    => Laws.Encoding.ldDtVx x
  | .ldStVx x    => Laws.Encoding.ldStVx x
  | .addIVx x    => Laws.Encoding.addIVx x
  | .ldFVx x     => Laws.Encoding.ldFVx x
  | .ldBVx x     => Laws.Encoding.ldBVx x
  | .stRegs x    => Laws.Encoding.stRegs x
  | .ldRegs x    => Laws.Encoding.ldRegs x

/-- A row looks at no bit that its instruction ignores. -/
theorem mask_and_significantMask (hr : r ∈ opcodeRows) (hi : r.mnemonic = i.mnemonic) :
    significantMask i &&& r.mask = r.mask := by
  revert r
  cases i
  case cls | ret => decide
  case seReg | sneReg | shr | shl =>
    simp only [Instr.mnemonic, significantMask]
    decide
  all_goals exact fun _ _ => BitVec.allOnes_and

theorem selects_iff : r.selects w = true ↔ w &&& r.mask = r.value := beq_iff_eq

/-- A row selects a word that agrees with an instruction if it selects its encoding. -/
theorem selects_of_agrees (hr : r ∈ opcodeRows) (hi : r.mnemonic = i.mnemonic) (hs : r.selects (encode i) = true)
    (h : Agrees w i) : r.selects w = true := by
  have mask := mask_and_significantMask hr hi
  rw [selects_iff] at hs ⊢
  calc w &&& r.mask = (w &&& significantMask i) &&& r.mask := by rw [BitVec.and_assoc, mask]
    _ = (encode i &&& significantMask i) &&& r.mask := by rw [h]
    _ = r.value := by rw [BitVec.and_assoc, mask, hs]

theorem exists_row_selects (h : decodeWord w = some i) : ∃ r ∈ opcodeRows, r.selects w = true := by
  obtain ⟨r, hr, hi, hs⟩ := encode_selected i
  exact ⟨r, hr, selects_of_agrees hr hi hs (decodeWord_eq_some_iff.1 h)⟩

theorem mnemonic_of_selects_low (hr : r ∈ rowsLow) (h : r.selects w = true) :
    (decodeWord w).map Instr.mnemonic = some r.mnemonic := by
  rw [selects_iff] at h
  fin_cases hr
  iterate 2
    · obtain ⟨high, low⟩ := keys_F00F h
      simp [decodeWord, decodeGroup0, high, low, Instr.mnemonic]
  all_goals simp [decodeWord, keys_F000 h, Instr.mnemonic]

theorem mnemonic_of_selects_alu (hr : r ∈ rowsAlu) (h : r.selects w = true) :
    (decodeWord w).map Instr.mnemonic = some r.mnemonic := by
  rw [selects_iff] at h
  fin_cases hr
  all_goals
    obtain ⟨high, low⟩ := keys_F00F h
    simp [decodeWord, decodeGroup8, high, low, Instr.mnemonic]

theorem mnemonic_of_selects_high (hr : r ∈ rowsHigh) (h : r.selects w = true) :
    (decodeWord w).map Instr.mnemonic = some r.mnemonic := by
  rw [selects_iff] at h
  fin_cases hr
  iterate 5
    · simp [decodeWord, keys_F000 h, Instr.mnemonic]
  all_goals
    obtain ⟨high, low⟩ := keys_F0FF h
    simp [decodeWord, decodeGroupE, high, low, Instr.mnemonic]

theorem mnemonic_of_selects_misc (hr : r ∈ rowsMisc) (h : r.selects w = true) :
    (decodeWord w).map Instr.mnemonic = some r.mnemonic := by
  rw [selects_iff] at h
  fin_cases hr
  all_goals
    obtain ⟨high, low⟩ := keys_F0FF h
    simp [decodeWord, decodeGroupF, high, low, Instr.mnemonic]

/-- A word that a row selects decodes to the row's instruction. -/
theorem mnemonic_of_selects (hr : r ∈ opcodeRows) (h : r.selects w = true) :
    (decodeWord w).map Instr.mnemonic = some r.mnemonic := by
  simp only [opcodeRows, List.mem_append] at hr
  obtain ((hr | hr) | hr) | hr := hr
  · exact mnemonic_of_selects_low hr h
  · exact mnemonic_of_selects_alu hr h
  · exact mnemonic_of_selects_high hr h
  · exact mnemonic_of_selects_misc hr h

theorem decodeWord_mnemonic (w : Word) :
    (decodeWord w).map Instr.mnemonic = (opcodeRows.find? (fun r => r.selects w)).map OpcodeRow.mnemonic := by
  cases hf : opcodeRows.find? (fun r => r.selects w) with
  | some r =>
    have hs : r.selects w = true := by simpa using List.find?_some hf
    exact mnemonic_of_selects (List.mem_of_find?_eq_some hf) hs
  | none =>
    cases hd : decodeWord w with
    | none => rfl
    | some i =>
      obtain ⟨r, hr, hs⟩ := exists_row_selects hd
      exact absurd hs (List.find?_eq_none.1 hf r hr)

/-- Two rows that select one word have one mnemonic, and no two rows of the map do. -/
theorem opcodeRows_disjoint :
    opcodeRows.Pairwise (fun r q => ∀ w : Word, ¬ (r.selects w = true ∧ q.selects w = true)) := by
  have distinct : opcodeRows.Pairwise (fun r q => r.mnemonic ≠ q.mnemonic) := by decide
  refine distinct.imp_of_mem fun hr hq hne w => ?_
  rintro ⟨hrw, hqw⟩
  exact hne (Option.some.inj ((mnemonic_of_selects hr hrw).symm.trans (mnemonic_of_selects hq hqw)))

end OpcodeMap

/-- Settles O4: a selected word has the mnemonic of its row (`mnemonic_of_selects`), a decoded one has a row
(`exists_row_selects`), and the 34 mnemonics differ. -/
theorem decoderAgreesWithOpcodeMap : Obligations.DecoderAgreesWithOpcodeMap :=
  ⟨rfl, decodeWord_mnemonic, opcodeRows_disjoint⟩

/-! ### The unlisted keys (R76) -/

section Unlisted

variable {w : Word}

theorem decodeGroup0_eq_none : decodeGroup0 w = none ↔ lowNibble w ∉ [0x0, 0xE] := by
  unfold decodeGroup0
  split <;> simp_all [BitVec.toNat_eq]

theorem decodeGroup8_eq_none :
    decodeGroup8 w = none ↔ lowNibble w ∉ [0x0, 0x1, 0x2, 0x3, 0x4, 0x5, 0x6, 0x7, 0xE] := by
  unfold decodeGroup8
  split <;> simp_all [BitVec.toNat_eq]

theorem decodeGroupE_eq_none : decodeGroupE w = none ↔ lowByte w ∉ [0x9E, 0xA1] := by
  unfold decodeGroupE
  split <;> simp_all [BitVec.toNat_eq]

theorem decodeGroupF_eq_none :
    decodeGroupF w = none ↔ lowByte w ∉ [0x07, 0x0A, 0x15, 0x18, 0x1E, 0x29, 0x33, 0x55, 0x65] := by
  unfold decodeGroupF
  split <;> simp_all [BitVec.toNat_eq]

end Unlisted

/-- Settles O5: the groups with a secondary key answer `none` off its listed values, the other high nibbles never. -/
theorem invalidWordsAreTheUnlistedKeys : Obligations.InvalidWordsAreTheUnlistedKeys := by
  intro w
  simp only [← decodeGroup0_eq_none, ← decodeGroup8_eq_none, ← decodeGroupE_eq_none, ← decodeGroupF_eq_none]
  unfold decodeWord
  split
  case h_16 =>
    have high : highNibble w = 0xF := eq_ofNat_of_toNat_eq (k := 15) (by have := (highNibble w).isLt; grind)
    simp [high]
  all_goals
    have high := eq_ofNat_of_toNat_eq ‹(highNibble w).toNat = _›
    simp [high]

/-- Settles O6: each word evaluated. -/
theorem specWordsDecode : Obligations.SpecWordsDecode := by
  unfold Obligations.SpecWordsDecode
  decide

end Sys2Proof.Machine
end

section
/-!
PROOFS for 40_cycle.md: the fetch (R102), what one cycle does in each of its outcomes (R100-R113), and the strobe of a
halted CORE (R109).
-/

namespace Sys2Proof.Machine

/-! ### Fetch (R102) -/

/-- The byte at the lower address is the high one (R57). -/
theorem toNat_wordOfBytes (hi lo : Byte) : (wordOfBytes hi lo).toNat = 256 * hi.toNat + lo.toNat := by
  rw [wordOfBytes, BitVec.toNat_append, ← Nat.shiftLeft_add_eq_or_of_lt lo.isLt, Nat.shiftLeft_eq, Nat.mul_comm]

/-- Settles O9: `fetch` policy by policy; the word of the two bytes as a number. -/
theorem fetchReadsTheWordAtPc : Obligations.FetchReadsTheWordAtPc := by
  intro s
  refine ⟨fun hp hpc => ⟨_, ?_, toNat_wordOfBytes _ _⟩, fun hp hpc => ?_, fun hp => ⟨_, ?_, toNat_wordOfBytes _ _⟩⟩
  · rw [fetch_fault hp, if_pos hpc]
  · rw [fetch_fault hp, if_neg (Nat.not_lt.2 hpc)]
  · exact fetch_mask12 hp

/-- Bytes that decode to an instruction: their word does. -/
theorem decodeWord_of_decodeBytes {hi lo : Byte} {i : Instr} {rest : List Byte}
    (h : decodeBytes [hi, lo] = .instr i rest) : decodeWord (wordOfBytes hi lo) = some i := by
  cases hd : decodeWord (wordOfBytes hi lo) with
  | none => simp [decodeBytes, hd] at h
  | some j =>
    obtain ⟨rfl, -⟩ : j = i ∧ [] = rest := by simpa [decodeBytes, hd] using h
    rfl

theorem fetchedInstr_eq_some {s : State} {i : Instr} :
    fetchedInstr s = some i ↔ ∃ w, fetch s = .ok w ∧ decodeWord w = some i := by
  unfold fetchedInstr
  cases fetch s <;> simp

/-! ### The frames of the cycle's own steps -/

section Frames

variable (s : State)

/-- Step (a) sets the keys and the ports (R101). -/
theorem snapshot_changesOnly : ChangesOnly [.keys, .pulses, .inputs, .draws] s (snapshot s) := by
  intro p hp; cases p <;> simp_all [Unchanged]

theorem raise_changesOnly (c : ErrorCause) (w : Option Word) (a : Option Nat) :
    ChangesOnly [.status] s (raise c w a s) := by
  intro p hp; cases p <;> simp_all [Unchanged]

theorem quiet_changesOnly : ChangesOnly [.pulses] s (quiet s) := by
  intro p hp; cases p <;> simp_all [Unchanged]

theorem timerStep_changesOnly : ChangesOnly [.delay, .sound, .pulses] s (timerStep s) := by
  intro p hp; cases p <;> simp_all [Unchanged]

theorem presentStep_changesOnly : ChangesOnly [.dirty, .pulses] s (presentStep s) := by
  intro p hp; cases p <;> simp_all [Unchanged]

/-- Steps (d) and (e), where the cycle runs them. -/
theorem finish_changesOnly : ChangesOnly [.delay, .sound, .dirty, .pulses] s (finish s) := by
  unfold finish
  split
  · exact ChangesOnly.refl _ s
  · exact ((timerStep_changesOnly s).trans (presentStep_changesOnly _)).mono (by simp)

end Frames

/-! ### The outcomes of a step -/

section Outcomes

variable {s t u : State}

theorem step_answers (s : State) : ∃ t, step s = .next t := by
  cases hh : s.halted with
  | true => exact ⟨_, step_of_halted hh⟩
  | false =>
    cases hf : fetch s with
    | error a => exact ⟨_, step_of_fetch_error hh hf⟩
    | ok w =>
      cases hd : decodeWord w with
      | none => exact ⟨_, step_of_invalid hh hf hd⟩
      | some i =>
        obtain ⟨u, hu⟩ := exec_answers i (executeState w s)
        exact ⟨finish u, by rw [step_of_instr hh hf hd, hu, afterExec]⟩

/-- A cycle whose instruction leaves the CORE running ends with steps (d) and (e). -/
theorem step_of_exec_running {w : Word} {i : Instr} (hs : s.halted = false) (hf : fetch s = .ok w)
    (hd : decodeWord w = some i) (hu : exec i (executeState w s) = .next u) (hrun : u.halted = false) :
    step s = .next (presentStep (timerStep u)) := by
  rw [step_of_instr hs hf hd, hu, afterExec, finish_of_running hrun]

/-- A step that ends in a running CORE has executed an instruction that left it running: the errors all halt it. -/
theorem executed_of_completed_step (hs : s.halted = false) (h : step s = .next t) (ht : t.halted = false) :
    ∃ w i u, fetch s = .ok w ∧ decodeWord w = some i ∧ exec i (executeState w s) = .next u ∧ u.halted = false ∧
      t = presentStep (timerStep u) := by
  obtain ⟨hh, -⟩ | ⟨-, a, -, rfl⟩ | ⟨-, w, -, -, rfl⟩ | ⟨-, w, i, u, hf, hd, hu, rfl⟩ := step_cases h
  · simp [hs] at hh
  · simp at ht
  · simp at ht
  · cases hrun : u.halted with
    | true => simp [finish_of_halted hrun, hrun] at ht
    | false => exact ⟨w, i, u, hf, hd, hu, hrun, finish_of_running hrun⟩

/-- The keys and the input ports at the end of a cycle are those of its key snapshot, whatever its outcome. -/
theorem step_keeps_snapshot_ports (hs : s.halted = false) (h : step s = .next t) :
    Unchanged .keys (snapshot s) t ∧ Unchanged .inputs (snapshot s) t := by
  obtain ⟨hh, -⟩ | ⟨-, a, -, rfl⟩ | ⟨-, w, -, -, rfl⟩ | ⟨-, w, i, u, -, -, hu, rfl⟩ := step_cases h
  · simp [hs] at hh
  · exact ⟨rfl, rfl, rfl⟩
  · exact ⟨rfl, rfl, rfl⟩
  · have executed := (exec_changesOnly hu).trans (finish_changesOnly u)
    exact ⟨executed .keys (by simp [not_mem_writtenParts]), executed .inputs (by simp [not_mem_writtenParts])⟩

end Outcomes

/-- Settles O15: case by case of the halt, the fetch and the decoding; every instruction answers. -/
theorem everyStepAnswersANextState : Obligations.EveryStepAnswersANextState := step_answers

/-- Settles O10: the two admitted addresses give the fetch, the two bytes the decoding. -/
theorem stepRunsTheDecodedInstruction : Obligations.StepRunsTheDecodedInstruction :=
  fun _ _ _ _ hs hhi hlo hdec => step_of_instr hs (fetch_of_checkAddr hhi hlo) (decodeWord_of_decodeBytes hdec)

/-- Settles O20: the strobe does `quiet`, which sets the pulses alone. -/
theorem haltedCoreIgnoresStrobes : Obligations.HaltedCoreIgnoresStrobes := fun s hs =>
  ⟨quiet s, step_of_halted hs, (quiet_changesOnly s).mono (by simp), quiet_beep s, quiet_present s⟩

/-- Settles O17: the fetch is refused at the lowest address outside, and the error is raised in the state after the key
snapshot. -/
theorem fetchOutsideMemoryHaltsTheCore : Obligations.FetchOutsideMemoryHaltsTheCore := by
  intro s hs hp hpc
  have refused : fetch s = .error (max s.pc.toNat 0x1000) := by rw [fetch_fault hp, if_neg (Nat.not_lt.2 hpc)]
  refine ⟨_, step_of_fetch_error hs refused, rfl, by simp [raise], rfl, rfl, ?_⟩
  exact ((snapshot_changesOnly s).trans (raise_changesOnly _ _ _ _)).mono (by simp [errorCycleParts])

/-- Settles O11: the cycle keeps the ports of its snapshot, and the coming inputs are carried through every
instruction. -/
theorem everyCycleCopiesTheKeyPort : Obligations.EveryCycleCopiesTheKeyPort := by
  refine ⟨fun s t p rest hs hin h => ?_, fun s t hs hin h => ?_, fun i l s => ?_⟩
  · obtain ⟨hkeys, hinputs, hrnd⟩ := step_keeps_snapshot_ports hs h
    rw [hkeys, hrnd, hinputs]
    exact snapshot_of_input hin
  · obtain ⟨hkeys, hinputs, hrnd⟩ := step_keeps_snapshot_ports hs h
    rw [hkeys, hrnd, hinputs]
    exact snapshot_of_none hin
  · exact exec_mapPorts (k := id) (b := id) (l := fun _ => l) i (fun _ => rfl) (fun _ _ _ => rfl)

/-- Settles O30: `exec_mapPorts` for a change of the random byte alone. -/
theorem onlyRndReadsTheRandomByte : Obligations.OnlyRndReadsTheRandomByte := by
  intro i b s hi
  exact exec_mapPorts (k := id) (b := fun _ => b) (l := id) i (fun _ => rfl) (fun x kk h => absurd h (hi x kk))

/-! ### Steps (d) and (e) (R107, R108) -/

/-- The beep of R107, with ST as a number. -/
theorem timerStep_beep_eq_decide (s : State) : (timerStep s).beep = decide (s.st.toNat = 1) := by
  rw [timerStep_beep, beq_eq_decide]
  exact decide_eq_decide.2 BitVec.toNat_eq

/-- Settles O12: a completed cycle ends with the timer step and the present step. -/
theorem completedCyclesCountTimersAndPresent : Obligations.CompletedCyclesCountTimersAndPresent := by
  intro s t hs h ht
  obtain ⟨w, i, u, hf, hd, hu, hrun, rfl⟩ := executed_of_completed_step hs h ht
  exact ⟨w, i, u, hf, hd, hu, timerStep_beep_eq_decide u, dec0_toNat u.dt, dec0_toNat u.st, rfl, rfl,
    finish_of_running hrun ▸ finish_changesOnly u⟩

/-! ### Waiting for a key (R113) -/

/-- With no key in the snapshot LD Vx,K leaves the state as it is (R214). -/
theorem exec_ldVxK_of_no_key {s : State} (x : Reg) (h : s.keys = 0) : exec (.ldVxK x) s = .next s := by
  rw [exec, execLdVxK, pressedKeys_eq_nil.2 h, waitKey]

/-- Settles O54: the instruction leaves the state of its execute step, and steps (d) and (e) follow. -/
theorem waitingKeepsPcAndCountsTimers : Obligations.WaitingKeepsPcAndCountsTimers := by
  intro s x hs hi hkeys
  obtain ⟨w, hf, hd⟩ := fetchedInstr_eq_some.1 hi
  have waits : exec (.ldVxK x) (executeState w s) = .next (executeState w s) := exec_ldVxK_of_no_key x hkeys
  refine ⟨_, step_of_exec_running hs hf hd waits (by simp [hs]), ?_⟩
  simp [KeepsRegs, dec0_toNat, timerStep_beep_eq_decide, hs, -timerStep_beep]

end Sys2Proof.Machine
end

section
/-!
PROOFS for 41_control_flow.md: CALL and RET on the call stack (R121, R122), the jumps (R123, R124) and the skips
(R125-R128).
-/

namespace Sys2Proof.Machine

/-! ### The call stack -/

section CallStack

variable {s t : State}

@[simp] theorem linkWord_zero : linkWord .zero = 0 := rfl

@[simp] theorem linkWord_two : linkWord .two = 2 := rfl

@[simp] theorem topReturn_pushReturn (a : Word) : topReturn (pushReturn a s) = a := Vector.getElem_set_self ..

/-- Where RET resumes depends on SP and the stack alone. -/
theorem topReturn_congr (hsp : t.sp = s.sp) (hstack : t.stack = s.stack) : topReturn t = topReturn s := by
  simp only [topReturn, hsp, hstack]

@[simp] theorem topReturn_jumpTo (a : Word) : topReturn (jumpTo a s) = topReturn s := rfl

theorem pushReturn_stack_of_ne {a : Word} {j : Fin 16} (h : j ≠ (pushReturn a s).sp) :
    (pushReturn a s).stack[j] = s.stack[j] :=
  Vector.getElem_set_ne (s.sp + 1).isLt j.isLt fun e => h (Fin.ext e.symm)

/-- Below the full stack the push does not wrap SP. -/
theorem sp_add_one_val (h : s.sp ≠ 15) : (s.sp + 1).val = s.sp.val + 1 :=
  Fin.val_add_one_of_lt (Fin.lt_last_iff_ne_last.2 h)

/-- Above the empty stack the pop does not wrap SP. -/
theorem sp_sub_one_val (h : s.sp ≠ 0) : (s.sp - 1).val + 1 = s.sp.val := by
  rw [Fin.val_sub_one_of_ne_zero h]
  exact Nat.sub_add_cancel (Nat.one_le_iff_ne_zero.2 (Fin.val_ne_zero_iff.2 h))

theorem sp_add_one_ne_zero (h : s.sp ≠ 15) : s.sp + 1 ≠ 0 :=
  Fin.val_ne_zero_iff.1 (sp_add_one_val h ▸ Nat.succ_ne_zero _)

end CallStack

/-! ### The targets of the jumps -/

@[simp] theorem toNat_zext16 (nnn : Addr12) : (zext16 nnn).toNat = nnn.toNat := by
  rw [zext16, BitVec.toNat_setWidth_of_le (by decide)]

/-- The target of JP V0 stays below 2^16 (R124). -/
theorem toNat_zext16_add_byteWord (nnn : Addr12) (b : Byte) :
    (zext16 nnn + byteWord b).toNat = nnn.toNat + b.toNat := by
  have hn := nnn.isLt
  have hb := b.isLt
  have hw : (byteWord b).toNat = b.toNat := BitVec.toNat_setWidth_of_le (by decide)
  rw [BitVec.toNat_add, toNat_zext16, hw]
  omega

/-! ### What CALL and RET answer -/

section CallRet

variable {s : State}

theorem exec_call_of_room (nnn : Addr12) (h : s.sp ≠ 15) :
    exec (.call nnn) s = .next (jumpTo (zext16 nnn) (pushReturn (s.pc + linkWord s.config.linkOffset) s)) :=
  congrArg Host.Outcome.next (if_neg h)

theorem exec_call_of_full (nnn : Addr12) (h : s.sp = 15) :
    exec (.call nnn) s = .next (raiseAt .stackOverflow none s) :=
  congrArg Host.Outcome.next (if_pos h)

theorem exec_ret_of_held (h : s.sp ≠ 0) : exec .ret s = .next (jumpTo (topReturn s + 2) (popReturn s)) :=
  congrArg Host.Outcome.next (if_neg h)

theorem exec_ret_of_empty (h : s.sp = 0) : exec .ret s = .next (raiseAt .stackUnderflow none s) :=
  congrArg Host.Outcome.next (if_pos h)

end CallRet

/-- Settles O34: with room CALL pushes and jumps, at SP = 15 it raises the error. -/
theorem callPushesAndJumps : Obligations.CallPushesAndJumps := by
  refine ⟨selects_F000 fun w high => by simp [decodeWord, high], fun s nnn => ⟨fun room => ?_, fun full => ?_⟩⟩
  · have pushed := topReturn_pushReturn (s := s) (s.pc + linkWord s.config.linkOffset)
    refine ⟨_, exec_call_of_room nnn room, toNat_zext16 nnn, sp_add_one_val room,
      fun j hj => pushReturn_stack_of_ne hj, fun hlink => ?_, fun hlink => ?_,
      (pushReturn_changesOnly.trans jumpTo_changesOnly).mono (by simp)⟩
    · exact pushed.trans (by simp [hlink])
    · exact (congrArg BitVec.toNat pushed).trans (by simp [hlink, BitVec.toNat_add])
  · exact ⟨_, exec_call_of_full nnn full, raiseAt_raised ..⟩

/-- Settles O35: with an address held RET pops and jumps, at SP = 0 it raises the error. -/
theorem retPopsAndAddsTwo : Obligations.RetPopsAndAddsTwo := by
  refine ⟨selects_F00F fun w high low => by simp [decodeWord, decodeGroup0, high, low],
    fun s => ⟨fun held => ?_, fun empty => ?_⟩⟩
  · exact ⟨_, exec_ret_of_held held, BitVec.toNat_add .., sp_sub_one_val held, rfl,
      (popReturn_changesOnly.trans jumpTo_changesOnly).mono (by simp)⟩
  · exact ⟨_, exec_ret_of_empty empty, raiseAt_raised ..⟩

/-- Settles O36: RET finds on top the address its CALL pushed, and both link offsets are added to the CALL's PC. -/
theorem retReturnsPastItsCall : Obligations.RetReturnsPastItsCall := by
  intro s t u r nnn room hcall hsp hstack hret
  cases (exec_call_of_room nnn room).symm.trans hcall
  have held : u.sp ≠ 0 := hsp ▸ sp_add_one_ne_zero room
  cases (exec_ret_of_held held).symm.trans hret
  have top : topReturn u = s.pc + linkWord s.config.linkOffset := by simp [topReturn_congr hsp hstack]
  refine ⟨by simp [hsp], fun hlink => ?_, fun hlink => ?_⟩
  all_goals simp [PcPlus, top, hlink, BitVec.toNat_add]

/-- Settles O32: each skip is `skipIf` on the comparison its condition states. -/
theorem registerSkips : Obligations.RegisterSkips := by
  refine ⟨?_, ?_, ?_, ?_, fun s x y kk =>
    ⟨⟨_, rfl, skipIf_skipsWhen s beq_iff_eq⟩, ⟨_, rfl, skipIf_skipsWhen s bne_iff_ne⟩,
      ⟨_, rfl, skipIf_skipsWhen s beq_iff_eq⟩, ⟨_, rfl, skipIf_skipsWhen s bne_iff_ne⟩⟩⟩
  all_goals exact selects_F000 fun w high => by simp [decodeWord, high]

/-- Settles O33: both jumps are `jumpTo`, and neither target reaches 2^16. -/
theorem jumpsSetPc : Obligations.JumpsSetPc := by
  refine ⟨?_, ?_, fun s nnn => ⟨⟨_, rfl, toNat_zext16 nnn, jumpTo_changesOnly⟩,
    ⟨_, rfl, toNat_zext16_add_byteWord nnn (readReg 0 s), jumpTo_changesOnly⟩⟩⟩
  all_goals exact selects_F000 fun w high => by simp [decodeWord, high]

end Sys2Proof.Machine
end

section
/-!
PROOFS for 42_alu.md: register loads and RND (R141, R143, R152, R213), arithmetic and logic without a flag (R142,
R144-R146), and the instructions that write a result and a flag (R147-R151).
-/

namespace Sys2Proof.Machine

/-! ### The flags as numbers (R26) -/

section Flags

variable (a b : Byte)

theorem toNat_boolByte_decide (p : Prop) [Decidable p] : (boolByte (decide p)).toNat = if p then 1 else 0 := by
  by_cases hp : p <;> simp [boolByte, hp]

theorem toNat_carryFlag : (carryFlag a b).toNat = if a.toNat + b.toNat > 255 then 1 else 0 :=
  toNat_boolByte_decide _

theorem toNat_notBorrowFlag : (notBorrowFlag a b).toNat = if a.toNat ≥ b.toNat then 1 else 0 :=
  toNat_boolByte_decide _

theorem toNat_shrFlag : (shrFlag a).toNat = a.toNat % 2 := Nat.and_one_is_mod _

/-- The test of the low nibble, as a remainder. -/
theorem toNat_shlFlag_lowNibbleEq1 : (shlFlag .lowNibbleEq1 a).toNat = if a.toNat % 16 = 1 then 1 else 0 := by
  have low : (a &&& 0x0F).toNat = a.toNat % 16 := Nat.and_two_pow_sub_one_eq_mod a.toNat 4
  have test : ((a &&& 0x0F) == 0x01) = decide (a.toNat % 16 = 1) := by
    rw [beq_eq_decide, ← low]
    exact decide_eq_decide.2 BitVec.toNat_inj.symm
  rw [shlFlag, test, toNat_boolByte_decide]

/-- Bit 7 of a byte, as a quotient. -/
theorem toNat_shlFlag_msb : (shlFlag .msb a).toNat = a.toNat / 128 := by
  have ha := a.isLt
  have bit : (shlFlag .msb a).toNat = a.toNat / 128 % 2 := by
    simp [shlFlag, Nat.shiftRight_eq_div_pow]
  omega

end Flags

/-! ### The difference as a number -/

/-- Subtraction mod 256, in naturals that never go below zero. -/
theorem toNat_sub_byte (a b : Byte) : (a - b).toNat = (a.toNat + 256 - b.toNat) % 256 := by
  have hb := b.isLt
  rw [BitVec.toNat_sub]
  omega

/-! ### The effect of an instruction from the numbers it writes -/

section Effects

variable {x : Reg} {s : State}

theorem writeReg_loadsReg_of_toNat {b : Byte} {n : Nat} (h : b.toNat = n) :
    LoadsReg x n s (next2 (writeReg x b s)) := h ▸ writeReg_loadsReg s x b

theorem writeResultAndFlag_writes_of_toNat {r f : Byte} {m n : Nat} (hr : r.toNat = m) (hf : f.toNat = n) :
    WritesResultAndFlag x m n s (next2 (writeResultAndFlag x r f s)) :=
  hr ▸ hf ▸ writeResultAndFlag_writes s x r f

end Effects

/-! ### Group 8 (R73) -/

/-- A row of group 8, from its low nibble. -/
theorem selects_group8 {v : Word} {f : Word → Instr} (hv : v.extractLsb' 12 4 = 8#4)
    (h : ∀ w, lowNibble w = v.extractLsb' 0 4 → decodeGroup8 w = some (f w)) : Selects 0xF00F v f :=
  selects_F00F fun w high low => by simpa [decodeWord, high, hv] using h w low

/-! ### Instructions that write a result and a flag -/

/-- Settles O39: byte addition is the sum mod 256, and the flag its carry. -/
theorem addSetsCarry : Obligations.AddSetsCarry :=
  ⟨selects_group8 rfl fun w low => by simp [decodeGroup8, low],
    fun _ _ _ => ⟨_, rfl, writeResultAndFlag_writes_of_toNat (BitVec.toNat_add ..) (toNat_carryFlag ..)⟩⟩

/-- Settles O40: SUB and SUBN are one subtraction, with its operands in either order. -/
theorem subtractSetsNotBorrow : Obligations.SubtractSetsNotBorrow := by
  refine ⟨?_, ?_, fun s x y => ⟨⟨_, rfl, ?_⟩, ⟨_, rfl, ?_⟩⟩⟩
  · exact selects_group8 rfl fun w low => by simp [decodeGroup8, low]
  · exact selects_group8 rfl fun w low => by simp [decodeGroup8, low]
  all_goals exact writeResultAndFlag_writes_of_toNat (toNat_sub_byte ..) (toNat_notBorrowFlag ..)

/-- Settles O41: both flags are computed from V[x] before the shift, SHL's by the test P_SHL_FLAG names. -/
theorem shiftsSetFlagFromOldValue : Obligations.ShiftsSetFlagFromOldValue := by
  refine ⟨?_, ?_, fun s x => ⟨⟨_, rfl, ?_⟩, ⟨_, rfl, ?_⟩⟩⟩
  · exact selects_group8 rfl fun w low => by simp [decodeGroup8, low]
  · exact selects_group8 rfl fun w low => by simp [decodeGroup8, low]
  · exact writeResultAndFlag_writes_of_toNat (Nat.shiftRight_one _) (toNat_shrFlag _)
  · refine writeResultAndFlag_writes_of_toNat (BitVec.toNat_mul ..) ?_
    cases s.config.shlFlag with
    | lowNibbleEq1 => exact toNat_shlFlag_lowNibbleEq1 _
    | msb => exact toNat_shlFlag_msb _

/-! ### Instructions that write no flag -/

/-- Settles O37: each is one write of a register, of a byte that is at hand before the instruction. -/
theorem registerLoads : Obligations.RegisterLoads := by
  refine ⟨?_, ?_, ?_, ?_, fun s x y kk =>
    ⟨⟨_, rfl, writeReg_loadsReg ..⟩, ⟨_, rfl, writeReg_loadsReg ..⟩, ⟨_, rfl, writeReg_loadsReg ..⟩,
      ⟨_, rfl, writeReg_loadsReg_of_toNat (BitVec.toNat_and ..)⟩⟩⟩
  · exact selects_F000 fun w high => by simp [decodeWord, high]
  · exact selects_group8 rfl fun w low => by simp [decodeGroup8, low]
  · exact selects_F0FF fun w high low => by simp [decodeWord, decodeGroupF, high, low]
  · exact selects_F000 fun w high => by simp [decodeWord, high]

/-- Settles O38: each is one write of V[x], of the byte operation whose number the statement gives. -/
theorem flaglessArithmetic : Obligations.FlaglessArithmetic := by
  refine ⟨?_, ?_, ?_, ?_, fun s x y kk =>
    ⟨⟨_, rfl, writeReg_loadsReg_of_toNat (BitVec.toNat_add ..)⟩,
      ⟨_, rfl, writeReg_loadsReg_of_toNat (BitVec.toNat_or ..)⟩,
      ⟨_, rfl, writeReg_loadsReg_of_toNat (BitVec.toNat_and ..)⟩,
      ⟨_, rfl, writeReg_loadsReg_of_toNat (BitVec.toNat_xor ..)⟩⟩⟩
  · exact selects_F000 fun w high => by simp [decodeWord, high]
  all_goals exact selects_group8 rfl fun w low => by simp [decodeGroup8, low]

end Sys2Proof.Machine
end

section
/-!
PROOFS for 43_index_memory.md: the writers of I (R171-R173), the stores of a block at I (R174, R175) and its load (R176).
-/

namespace Sys2Proof.Machine

/-! ### The writers of I -/

@[simp] theorem toNat_byteWord (b : Byte) : (byteWord b).toNat = b.toNat :=
  BitVec.toNat_setWidth_of_le (by decide)

/-- Every byte has a glyph address below 2^16 (R173). -/
@[simp] theorem toNat_glyphAddr (b : Byte) : (glyphAddr b).toNat = b.toNat * 5 :=
  Nat.mod_eq_of_lt (by have hb := b.isLt; omega)

/-- The effect of an ordinary instruction that writes I, from the number it writes. -/
theorem writeI_setsIndex_of_toNat {a : Word} {n : Nat} {s : State} (h : a.toNat = n) :
    (next2 (writeI a s)).i.toNat = n ∧ PcPlus 2 s (next2 (writeI a s)) ∧
      ChangesOnly [.index, .pc] s (next2 (writeI a s)) :=
  ⟨h, next2_pcPlus rfl, writeI_changesOnly.trans next2_changesOnly⟩

/-- Settles O42: each is one write of I, of the word whose number the statement gives. -/
theorem indexRegisterWrites : Obligations.IndexRegisterWrites := by
  refine ⟨?_, ?_, ?_, fun s x nnn =>
    ⟨⟨_, rfl, writeI_setsIndex_of_toNat (toNat_zext16 nnn)⟩, ⟨_, rfl, writeI_setsIndex_of_toNat ?_⟩,
      ⟨_, rfl, writeI_setsIndex_of_toNat (toNat_glyphAddr _)⟩⟩⟩
  · exact selects_F000 fun w high => by simp [decodeWord, high]
  · exact selects_F0FF fun w high low => by simp [decodeWord, decodeGroupF, high, low]
  · exact selects_F0FF fun w high low => by simp [decodeWord, decodeGroupF, high, low]
  · rw [BitVec.toNat_add, toNat_byteWord]

/-! ### Instructions on a block at I -/

section Blocks

variable {x : Reg} {s t : State}

/-- Whether a block is refused depends on I and the parameters alone. -/
theorem blockOutside_congr {n : Nat} (hi : t.i = s.i) (hc : t.config = s.config) :
    BlockOutside n t ↔ BlockOutside n s := by
  rw [BlockOutside, BlockOutside, hi, hc]

/-- An instruction that runs on a block at I raises MemoryOutOfRange where the block is refused (R170). -/
theorem exec_raised_of_blockOutside {i : Instr} {n : Nat} {body : State → State}
    (hexec : exec i s = .next (checkAll (blockAddrs s.i n) body s)) (h : BlockOutside n s) :
    ∃ t, exec i s = .next t ∧ Raised .memoryOutOfRange (some (max s.i.toNat 0x1000)) s t :=
  ⟨_, hexec.trans (congrArg Host.Outcome.next (checkAll_of_blockOutside h)), raiseAt_raised ..⟩

/-- The effect of an ordinary instruction that stores a block at I. -/
theorem memWriteList_writesBlock {bs : List Byte} (hm : s.mem.wf = true) (hl : bs.length ≤ memSize) :
    StoresBlock bs s (next2 (memWriteList s.i.toNat bs s)) ∧ PcPlus 2 s (next2 (memWriteList s.i.toNat bs s)) ∧
      ChangesOnly [.memory, .pc] s (next2 (memWriteList s.i.toNat bs s)) :=
  ⟨memWriteList_storesBlock hm hl, next2_pcPlus (by simp), memWriteList_changesOnly.trans next2_changesOnly⟩

/-- LD B,Vx on an admitted block (R174). -/
theorem exec_ldBVx_of_not_blockOutside (h : ¬ BlockOutside 3 s) :
    exec (.ldBVx x) s = .next (next2 (memWriteList s.i.toNat (bcdDigits (readReg x s)) s)) :=
  congrArg Host.Outcome.next (checkAll_of_not_blockOutside h)

/-- LD Vx,[I] on an admitted block (R176). -/
theorem exec_ldRegs_of_not_blockOutside (h : ¬ BlockOutside (x.val + 1) s) :
    exec (.ldRegs x) s = .next (next2 (loadRegs s.i.toNat x s)) :=
  congrArg Host.Outcome.next (checkAll_of_not_blockOutside h)

/-- V[j] after LD Vx,[I] is the byte at the address of I + j. -/
theorem exec_ldRegs_read {j : Reg} {e : Nat} (hin : ¬ BlockOutside (x.val + 1) s)
    (ht : exec (.ldRegs x) s = .next t) (hj : j ≤ x)
    (he : checkAddr s.config.addrPolicy (s.i.toNat + j.val) = some e) : readReg j t = s.mem.read e := by
  rw [exec_ldRegs_of_not_blockOutside hin] at ht
  cases ht
  rw [readReg_next2, readReg_loadRegs, if_pos hj, memRead_eq he]

end Blocks

/-- The three bytes of LD B,Vx are the decimal digits of V[x] (R174). -/
theorem bcdDigits_decimal (b : Byte) : ∃ d2 d1 d0 : Byte, bcdDigits b = [d2, d1, d0] ∧
    b.toNat = 100 * d2.toNat + 10 * d1.toNat + d0.toNat ∧ d1.toNat < 10 ∧ d0.toNat < 10 := by
  have hb := b.isLt
  refine ⟨_, _, _, rfl, ?_⟩
  simp only [BitVec.toNat_ofNat]
  omega

/-- Settles O43: an admitted block is stored digit by digit, a refused one raises the error. -/
theorem bcdStoresThreeDigits : Obligations.BcdStoresThreeDigits := by
  refine ⟨selects_F0FF fun w high low => by simp [decodeWord, decodeGroupF, high, low],
    fun s x hm => ⟨fun admitted => ?_, exec_raised_of_blockOutside rfl⟩⟩
  obtain ⟨d2, d1, d0, hdigits, hsum, hd1, hd0⟩ := bcdDigits_decimal (readReg x s)
  have stores := exec_ldBVx_of_not_blockOutside (x := x) admitted
  rw [hdigits] at stores
  exact ⟨_, d2, d1, d0, stores, hsum, hd1, hd0, memWriteList_writesBlock hm (by simp [memSize])⟩

/-- Settles O44: an admitted block takes the registers up to V[x], a refused one raises the error. -/
theorem blockStoreWritesRegisters : Obligations.BlockStoreWritesRegisters := by
  refine ⟨selects_F0FF fun w high low => by simp [decodeWord, decodeGroupF, high, low],
    fun s x hm => ⟨fun admitted => ?_, exec_raised_of_blockOutside rfl⟩⟩
  have fits : (regsUpTo x s).length ≤ memSize := by rw [length_regsUpTo, memSize]; omega
  rw [map_readReg_eq_regsUpTo]
  exact ⟨_, exec_stRegs_of_not_blockOutside admitted, memWriteList_writesBlock hm fits⟩

/-- Settles O45: an admitted block fills the registers up to V[x], a refused one raises the error. -/
theorem blockLoadReadsRegisters : Obligations.BlockLoadReadsRegisters := by
  refine ⟨selects_F0FF fun w high low => by simp [decodeWord, decodeGroupF, high, low],
    fun s x => ⟨fun admitted => ?_, exec_raised_of_blockOutside rfl⟩⟩
  have loads := exec_ldRegs_of_not_blockOutside admitted
  refine ⟨_, loads, fun j e hj he => exec_ldRegs_read admitted loads hj he, fun j hj => ?_, next2_pcPlus rfl,
    loadRegs_changesOnly.trans next2_changesOnly⟩
  rw [readReg_next2, readReg_loadRegs, if_neg (not_le.2 hj)]

/-- Settles O46: the load reads V[j] at the address where the store put it. -/
theorem blockStoreThenLoadRestoresRegisters : Obligations.BlockStoreThenLoadRestoresRegisters := by
  intro s t u r x hm admitted hstore hmem hi hconfig hload j hj
  obtain ⟨e, he⟩ := checkAddr_of_not_blockOutside admitted (Nat.lt_succ_of_le hj)
  have admitted' : ¬ BlockOutside (x.val + 1) u := mt (blockOutside_congr hi hconfig).1 admitted
  calc readReg j r = u.mem.read e := exec_ldRegs_read admitted' hload hj (by rw [hconfig, hi, he])
    _ = t.mem.read e := by rw [hmem]
    _ = readReg j s := exec_stRegs_read hm admitted hstore hj he

end Sys2Proof.Machine
end

section
/-!
PROOFS for 44_display.md: CLS (R191), DRW on the pixels of the grid and on VF (R192, R194), the same DRW twice (R195).
-/

namespace Sys2Proof.Machine

/-! ### CLS -/

/-- Settles O48: CLS shows the blank framebuffer and advances. -/
theorem clsClearsEveryPixel : Obligations.ClsClearsEveryPixel :=
  ⟨selects_F00F fun w high low => by simp [decodeWord, decodeGroup0, high, low],
    fun _ => ⟨_, rfl, pixel_blankFb, rfl, next2_pcPlus rfl, writeFb_changesOnly.trans next2_changesOnly⟩⟩

/-! ### The draw of DRW, in terms of the pixels under its sprite -/

section Draw

variable {x y : Reg} {n : RowCount} {s t : State} {c r : Nat}

theorem pixel_drawAtRegs_of_underSprite (hc : c < 64) (hr : r < 32) (h : UnderSprite x y n s c r) :
    pixel (drawAtRegs x y n s).1 c r = !pixel s.fb c r := by
  rw [drawAtRegs, pixel_drawSprite, (covers_iff_underSprite hc hr).2 h, Bool.xor_true]

theorem pixel_drawAtRegs_of_not_underSprite (hc : c < 64) (hr : r < 32) (h : ¬ UnderSprite x y n s c r) :
    pixel (drawAtRegs x y n s).1 c r = pixel s.fb c r := by
  rw [drawAtRegs, pixel_drawSprite, Bool.eq_false_iff.2 (mt (covers_iff_underSprite hc hr).1 h), Bool.xor_false]

/-- Only a pixel of the grid can be hit, since no other is on (R194). -/
theorem hit_drawAtRegs : (drawAtRegs x y n s).2 = true ↔
    ∃ c < 64, ∃ r < 32, UnderSprite x y n s c r ∧ pixel s.fb c r = true := by
  rw [drawAtRegs, hit_drawSprite]
  constructor
  · rintro ⟨c, r, covered, on⟩
    obtain ⟨hc, hr⟩ : c < 64 ∧ r < 32 := by
      by_contra outside
      simp [pixel_outside outside] at on
    exact ⟨c, hc, r, hr, (covers_iff_underSprite hc hr).1 covered, on⟩
  · rintro ⟨c, hc, r, hr, under, on⟩
    exact ⟨c, r, (covers_iff_underSprite hc hr).2 under, on⟩

/-- A start outside the grid and a sprite without rows leave no pixel of the grid under the sprite (R194). -/
theorem not_underSprite_of_outside
    (h : 64 ≤ (readReg x s).toNat ∨ 32 ≤ (readReg y s).toNat ∨ n.val = 0) (hc : c < 64) (hr : r < 32) :
    ¬ UnderSprite x y n s c r := by
  rintro ⟨left, -, top, bottom, -⟩
  omega

theorem memRead_congr (hm : t.mem = s.mem) (hconfig : t.config = s.config) (a : Nat) :
    memRead a t = memRead a s := by
  rw [memRead, memRead, hm, hconfig]

/-- Where a sprite lies depends on memory, I, the parameters and its two coordinates alone. -/
theorem underSprite_congr (hm : t.mem = s.mem) (hi : t.i = s.i) (hconfig : t.config = s.config)
    (hx : readReg x t = readReg x s) (hy : readReg y t = readReg y s) :
    UnderSprite x y n t c r ↔ UnderSprite x y n s c r := by
  simp only [UnderSprite, hi, hx, hy, memRead_congr hm hconfig]

theorem boolByte_eq_one {b : Bool} : boolByte b = 1 ↔ b = true := by cases b <;> decide

theorem boolByte_eq_zero {b : Bool} : boolByte b = 0 ↔ b = false := by cases b <;> decide

/-- The state DRW leaves when its sprite's bytes are admitted (R192). -/
theorem exec_drw_completes (h : ¬ BlockOutside n.val s) : ∃ t, exec (.drw x y n) s = .next t ∧
    t.fb = (drawAtRegs x y n s).1 ∧ readReg vf t = boolByte (drawAtRegs x y n s).2 ∧ KeepsRegs [vf] s t ∧
    t.dirty = true ∧ PcPlus 2 s t ∧ ChangesOnly [.regs, .framebuffer, .dirty, .pc] s t :=
  ⟨_, exec_drw_of_not_blockOutside h, rfl, by simp, writeReg_keepsRegs.writeFb.next2, rfl, next2_pcPlus rfl,
    writeReg_changesOnly.trans (writeFb_changesOnly.trans next2_changesOnly)⟩

end Draw

/-- Settles O49: an admitted sprite flips the pixels under it and VF is the hit, a refused one raises the error. -/
theorem drwXorsTheSprite : Obligations.DrwXorsTheSprite := by
  refine ⟨selects_F000 fun w high => by simp [decodeWord, high],
    fun s x y n => ⟨fun admitted => ?_, exec_raised_of_blockOutside rfl⟩⟩
  obtain ⟨t, draws, hfb, hvf, frame⟩ := exec_drw_completes (x := x) (y := y) admitted
  refine ⟨t, draws, ?_⟩
  rw [← hit_drawAtRegs, hfb, hvf, Bool.not_eq_true]
  exact ⟨fun c hc r hr => pixel_drawAtRegs_of_underSprite hc hr,
    fun c hc r hr => pixel_drawAtRegs_of_not_underSprite hc hr, boolByte_eq_one.2, boolByte_eq_zero.2, frame⟩

/-- Settles O50: with no pixel of the grid under the sprite, O49 keeps every pixel and finds no hit. -/
theorem drwOutsideTheGridDrawsNothing : Obligations.DrwOutsideTheGridDrawsNothing := by
  intro s x y n admitted outside
  obtain ⟨-, effect⟩ := drwXorsTheSprite
  obtain ⟨t, draws, -, kept, -, noHit, -, dirty, -⟩ := (effect s x y n).1 admitted
  have none_under : ∀ c < 64, ∀ r < 32, ¬ UnderSprite x y n s c r :=
    fun _ hc _ hr => not_underSprite_of_outside outside hc hr
  refine ⟨t, draws, framebuffer_ext fun c hc r hr => kept c hc r hr (none_under c hc r hr), noHit ?_, dirty⟩
  rintro ⟨c, hc, r, hr, under, -⟩
  exact none_under c hc r hr under

/-- Settles O51: both draws have the same pixels under the sprite, and the second flips back what the first flipped. -/
theorem drwTwiceRestoresTheFramebuffer : Obligations.DrwTwiceRestoresTheFramebuffer := by
  intro s t u r x y n admitted hfirst hfb hmem hi hconfig hx hy hsecond
  have admitted' : ¬ BlockOutside n.val u := mt (blockOutside_congr hi hconfig).1 admitted
  have same : ∀ c q, UnderSprite x y n u c q ↔ UnderSprite x y n s c q :=
    fun _ _ => underSprite_congr hmem hi hconfig hx hy
  obtain ⟨t', draws, htfb, -⟩ := exec_drw_completes (x := x) (y := y) admitted
  obtain ⟨r', draws', hrfb, hrvf, -⟩ := exec_drw_completes (x := x) (y := y) admitted'
  cases draws.symm.trans hfirst
  cases draws'.symm.trans hsecond
  have flipped : ∀ c < 64, ∀ q < 32, UnderSprite x y n s c q → pixel u.fb c q = !pixel s.fb c q := by
    intro c hc q hq under
    rw [hfb, htfb, pixel_drawAtRegs_of_underSprite hc hq under]
  constructor
  · rw [hrfb]
    refine framebuffer_ext fun c hc q hq => ?_
    by_cases under : UnderSprite x y n s c q
    · rw [pixel_drawAtRegs_of_underSprite hc hq ((same c q).2 under), flipped c hc q hq under, Bool.not_not]
    · rw [pixel_drawAtRegs_of_not_underSprite hc hq (mt (same c q).1 under), hfb, htfb,
        pixel_drawAtRegs_of_not_underSprite hc hq under]
  · rw [hrvf, boolByte_eq_one, hit_drawAtRegs]
    constructor
    · rintro ⟨c, hc, q, hq, under, on⟩
      rw [same] at under
      exact ⟨c, hc, q, hq, under, by simpa [flipped c hc q hq under] using on⟩
    · rintro ⟨c, hc, q, hq, under, off⟩
      exact ⟨c, hc, q, hq, (same c q).2 under, by simp [flipped c hc q hq under, off]⟩

end Sys2Proof.Machine
end

section
/-!
PROOFS for 45_input_timers.md: the key skips (R210-R212), the key LD Vx,K takes (R214), the timer writes (R215, R216)
and the one beep of a sound timer (R216).
-/

namespace Sys2Proof.Machine

/-! ### The sound timer -/

/-- A completed cycle that does not execute LD ST,Vx counts ST down, and beeps when ST was 1 at its start (R107). -/
theorem completed_step_sound {s t : State} (hs : s.halted = false) (h : step s = .next t) (ht : t.halted = false)
    (hi : ∀ x, fetchedInstr s ≠ some (.ldStVx x)) :
    t.st.toNat = s.st.toNat - 1 ∧ t.beep = decide (s.st.toNat = 1) := by
  obtain ⟨w, i, u, hf, hd, hu, -, rfl⟩ := executed_of_completed_step hs h ht
  have notWriter : .sound ∉ writtenParts i := by
    rw [sound_mem_writtenParts]
    rintro ⟨x, rfl⟩
    exact hi x (fetchedInstr_eq_some.2 ⟨w, hf, hd⟩)
  have kept : u.st = s.st := Eq.trans (exec_changesOnly hu .sound notWriter) (executeState_st s w)
  exact kept ▸ ⟨dec0_toNat u.st, timerStep_beep_eq_decide u⟩

/-- Settles O14: by induction ST is m - k at the start of cycle k + 1, and it is 1 there exactly when m = k + 1. -/
theorem soundTimerBeepsExactlyOnce : Obligations.SoundTimerBeepsExactlyOnce := by
  intro run n cycles
  have sound : ∀ k < n, (run (k + 1)).st.toNat = (run k).st.toNat - 1 ∧
      (run (k + 1)).beep = decide ((run k).st.toNat = 1) := by
    intro k hk
    obtain ⟨hs, h, ht, hi⟩ := cycles k hk
    exact completed_step_sound hs h ht hi
  have counted : ∀ k ≤ n, (run k).st.toNat = (run 0).st.toNat - k := by
    intro k hk
    induction k with
    | zero => rfl
    | succ k ih =>
      obtain ⟨down, -⟩ := sound k hk
      rw [down, ih (Nat.le_of_succ_le hk), Nat.sub_sub]
  intro k hk
  obtain ⟨-, beeps⟩ := sound k hk
  rw [beeps, counted k hk.le]
  exact decide_eq_decide.2 (by omega)

/-! ### The key skips -/

section KeySkip

variable {x : Reg} {down : Bool} {s : State}

/-- A value below 16 names a key: the skip is on its state (R210). -/
theorem keySkip_skipsWhen (h : (readReg x s).toNat < 16) :
    SkipsWhen (keyDown s.keys (readReg x s).toNat = down) s (keySkip x down s) := by
  rw [keySkip, if_pos h]
  exact skipIf_skipsWhen s beq_iff_eq

/-- A value of 16 or more names no key (R210). -/
theorem keySkip_raised (h : 16 ≤ (readReg x s).toNat) :
    Raised .keyIndexOutOfRange (some (readReg x s).toNat) s (keySkip x down s) := by
  rw [keySkip, if_neg (Nat.not_lt.2 h)]
  exact raiseAt_raised ..

end KeySkip

/-- Settles O52: SKP and SKNP are `keySkip` on a key that is down and on one that is up. -/
theorem keySkips : Obligations.KeySkips := by
  refine ⟨?_, ?_, fun s x => ⟨fun key => ⟨⟨_, rfl, keySkip_skipsWhen key⟩, ⟨_, rfl, keySkip_skipsWhen key⟩⟩,
    fun noKey => ⟨⟨_, rfl, keySkip_raised noKey⟩, ⟨_, rfl, keySkip_raised noKey⟩⟩⟩⟩
  all_goals exact selects_F0FF fun w high low => by simp [decodeWord, decodeGroupE, high, low]

/-! ### The key wait -/

section KeyWait

variable {x : Reg} {k p : Nat} {ks : List Nat} {keys : BitVec 16} {s : State}

theorem keys_eq_zero_of_no_key (h : ∀ k < 16, keyDown keys k = false) : keys = 0 :=
  BitVec.eq_of_getLsbD_eq fun k hk => (h k hk).trans BitVec.getLsbD_zero.symm

/-- The head of the pressed keys is the lowest of them. -/
theorem head_pressedKeys_le (h : pressedKeys keys = k :: ks) (hp : p ∈ pressedKeys keys) : k ≤ p := by
  have ascending := pairwise_pressedKeys keys
  rw [h] at ascending hp
  obtain rfl | hp := List.mem_cons.1 hp
  · exact Nat.le_refl p
  · exact (List.rel_of_pairwise_cons ascending hp).le

theorem chooseKey_of_lowest (h : s.config.ldkSelect = .lowest) : chooseKey k ks s = k := by
  rw [chooseKey, h]

@[simp] theorem waitKey_cons_pc :
    (waitKey x (k :: ks) s).pc = s.pc + ldkWord s.config.ldkAdvance := by simp [waitKey]

@[simp] theorem readReg_waitKey_cons :
    readReg x (waitKey x (k :: ks) s) = BitVec.ofNat 8 (chooseKey k ks s) := by simp [waitKey]

/-- V[x] after the wait is the number of the key taken, and that key is pressed (R214). -/
theorem readReg_waitKey_pressed (h : pressedKeys s.keys = k :: ks) :
    (readReg x (waitKey x (k :: ks) s)).toNat = chooseKey k ks s ∧ chooseKey k ks s < 16 ∧
      keyDown s.keys (chooseKey k ks s) = true := by
  obtain ⟨lt, pressed⟩ := mem_pressedKeys.1 (h ▸ chooseKey_mem k ks s)
  refine ⟨?_, lt, pressed⟩
  rw [readReg_waitKey_cons, BitVec.toNat_ofNat, Nat.mod_eq_of_lt (by omega)]

end KeyWait

/-- Settles O53: with no key LD Vx,K changes nothing; else it takes a member of the list of pressed keys, whose head is
the lowest. -/
theorem keyWaitTakesAPressedKey : Obligations.KeyWaitTakesAPressedKey := by
  refine ⟨selects_F0FF fun w high low => by simp [decodeWord, decodeGroupF, high, low], fun s x =>
    ⟨fun noKey => exec_ldVxK_of_no_key x (keys_eq_zero_of_no_key noKey), fun p hp down => ?_⟩⟩
  have member : p ∈ pressedKeys s.keys := mem_pressedKeys.2 ⟨hp, down⟩
  obtain ⟨k, ks, hpressed⟩ := List.exists_cons_of_ne_nil (List.ne_nil_of_mem member)
  obtain ⟨taken, lt, pressed⟩ := readReg_waitKey_pressed (x := x) hpressed
  refine ⟨waitKey x (k :: ks) s, by rw [exec, execLdVxK, hpressed], taken ▸ lt, taken ▸ pressed, fun lowest => ?_,
    fun two => ?_, fun four => ?_, waitKey_keepsRegs, waitKey_changesOnly.mono (by simp)⟩
  · rw [taken, chooseKey_of_lowest lowest]
    exact head_pressedKeys_le hpressed member
  · simp [PcPlus, two, ldkWord, BitVec.toNat_add]
  · simp [PcPlus, four, ldkWord, BitVec.toNat_add]

/-! ### The timer writes -/

/-- Settles O55: each is the write of one timer and the ordinary advance. -/
theorem timerWrites : Obligations.TimerWrites := by
  refine ⟨?_, ?_, fun s x => ⟨⟨_, rfl, rfl, next2_pcPlus rfl, writeDT_changesOnly.trans next2_changesOnly⟩,
    ⟨_, rfl, rfl, next2_pcPlus rfl, writeST_changesOnly.trans next2_changesOnly⟩⟩⟩
  all_goals exact selects_F0FF fun w high low => by simp [decodeWord, decodeGroupF, high, low]

end Sys2Proof.Machine
end

section
/-!
PROOFS for 60_exceptions.md: which error an instruction raises and when (R234, R237), the cycles that raise one
(R230-R233), the halt (R235), the timers of the cycles that raise none (R242), and the invariant that every step keeps.
-/

namespace Sys2Proof.Machine

/-! ### The errors of the execute step (R237) -/

/-- Instruction `i` raises the error, with its argument, in the state `s` (R121, R122, R170, R210). -/
inductive ErrorCondition (s : State) : Instr → ErrorCause → Option Nat → Prop where
  | full (nnn : Addr12) : s.sp = 15 → ErrorCondition s (.call nnn) .stackOverflow none
  | empty : s.sp = 0 → ErrorCondition s .ret .stackUnderflow none
  | skpNoKey (x : Reg) :
      16 ≤ (readReg x s).toNat → ErrorCondition s (.skp x) .keyIndexOutOfRange (some (readReg x s).toNat)
  | sknpNoKey (x : Reg) :
      16 ≤ (readReg x s).toNat → ErrorCondition s (.sknp x) .keyIndexOutOfRange (some (readReg x s).toNat)
  | outside {i : Instr} {n : Nat} : executeError i = some .memoryOutOfRange → BlockOutside n s →
      ErrorCondition s i .memoryOutOfRange (some (max s.i.toNat 0x1000))

/-- What instruction `i` does to the status on the way from `s` to `t`. -/
def KeepsStatusOrRaises (i : Instr) (s t : State) : Prop :=
  Unchanged .status s t ∨ ∃ c a, ErrorCondition s i c a ∧ t = raiseAt c a s

section ExecuteErrors

variable {i : Instr} {s t u : State} {c : ErrorCause} {a : Option Nat}

theorem ErrorCondition.executeError_eq (h : ErrorCondition s i c a) : executeError i = some c := by
  cases h with
  | outside hi _ => exact hi
  | _ => rfl

/-- An instruction on a block at I, whose body leaves the status alone. -/
theorem checkAll_keepsStatusOrRaises {n : Nat} {body : State → State}
    (hi : executeError i = some .memoryOutOfRange) (hbody : Unchanged .status s (body s)) :
    KeepsStatusOrRaises i s (checkAll (blockAddrs s.i n) body s) := by
  by_cases outside : BlockOutside n s
  · exact .inr ⟨_, _, .outside hi outside, checkAll_of_blockOutside outside⟩
  · rw [checkAll_of_not_blockOutside outside]
    exact .inl hbody

/-- A skip on a key, given its condition to raise the error. -/
theorem keySkip_keepsStatusOrRaises {x : Reg} {down : Bool}
    (hi : 16 ≤ (readReg x s).toNat → ErrorCondition s i .keyIndexOutOfRange (some (readReg x s).toNat)) :
    KeepsStatusOrRaises i s (keySkip x down s) := by
  unfold keySkip
  split
  case isTrue => exact .inl (skipIf_changesOnly .status (by simp))
  case isFalse noKey => exact .inr ⟨_, _, hi (Nat.not_lt.1 noKey), rfl⟩

/-- Everything an instruction can do to the status. -/
theorem exec_keepsStatusOrRaises (h : exec i s = .next t) : KeepsStatusOrRaises i s t := by
  cases i
  case call nnn =>
    by_cases full : s.sp = 15
    · cases (exec_call_of_full nnn full).symm.trans h
      exact .inr ⟨_, _, .full nnn full, rfl⟩
    · cases (exec_call_of_room nnn full).symm.trans h
      exact .inl ⟨rfl, rfl⟩
  case ret =>
    by_cases empty : s.sp = 0
    · cases (exec_ret_of_empty empty).symm.trans h
      exact .inr ⟨_, _, .empty empty, rfl⟩
    · cases (exec_ret_of_held empty).symm.trans h
      exact .inl ⟨rfl, rfl⟩
  case skp x =>
    cases h
    exact keySkip_keepsStatusOrRaises (.skpNoKey x)
  case sknp x =>
    cases h
    exact keySkip_keepsStatusOrRaises (.sknpNoKey x)
  case drw =>
    cases h
    exact checkAll_keepsStatusOrRaises rfl
      ((writeReg_changesOnly.trans (writeFb_changesOnly.trans next2_changesOnly)) .status (by simp))
  case ldBVx | stRegs =>
    cases h
    exact checkAll_keepsStatusOrRaises rfl ((memWriteList_changesOnly.trans next2_changesOnly) .status (by simp))
  case ldRegs =>
    cases h
    exact checkAll_keepsStatusOrRaises rfl ((loadRegs_changesOnly.trans next2_changesOnly) .status (by simp))
  all_goals exact .inl (exec_changesOnly h .status (by simp [writtenParts]))

/-- An instruction that halts a running CORE has raised its error. -/
theorem raised_of_exec_halts (h : exec i s = .next t) (hs : s.halted = false) (ht : t.halted = true) :
    ∃ c a, ErrorCondition s i c a ∧ t = raiseAt c a s := by
  obtain ⟨kept, -⟩ | raised := exec_keepsStatusOrRaises h
  · simp [kept, hs] at ht
  · exact raised

/-- An instruction that leaves the CORE running has raised no error. -/
theorem status_of_exec_running (h : exec i s = .next t) (ht : t.halted = false) : Unchanged .status s t := by
  obtain kept | ⟨c, a, -, rfl⟩ := exec_keepsStatusOrRaises h
  · exact kept
  · simp at ht

end ExecuteErrors

/-- Settles O19: the instruction keeps the status, or raises an error whose condition is one of its own. -/
theorem instructionsRaiseOnlyTheirOwnError : Obligations.InstructionsRaiseOnlyTheirOwnError := by
  intro i s t h
  obtain kept | ⟨c, a, condition, rfl⟩ := exec_keepsStatusOrRaises h
  · exact .inl kept
  · exact .inr ⟨c, a, condition.executeError_eq, raiseAt_raised s c a⟩

/-! ### The cycles that raise an error (R110, R233) -/

@[simp] theorem finish_halted (s : State) : (finish s).halted = s.halted := by unfold finish; split <;> rfl

/-- On the word `w` the cycle from `s` raises `c` with the argument `a`: the word is no instruction (R230), or it is one
that raises its error (R237). -/
def RaisesOnWord (s : State) (w : Word) (c : ErrorCause) (a : Option Nat) : Prop :=
  (decodeWord w = none ∧ c = .invalidOpcode ∧ a = none) ∨
  ∃ i, decodeWord w = some i ∧ ErrorCondition (executeState w s) i c a

section ErrorCycles

variable {s t : State}

/-- Steps (a) and (b) up to the fetched word set the keys, the ports and `w` (R36, R101). -/
theorem executeState_changesOnly (w : Word) (s : State) :
    ChangesOnly [.keys, .word, .pulses, .inputs, .draws] s (executeState w s) := by
  intro p hp; cases p <;> simp_all [Unchanged]

/-- An error raised after the fetch leaves alone what R233 names. -/
theorem raise_executeState_changesOnly (c : ErrorCause) (v : Option Word) (a : Option Nat) (w : Word) (s : State) :
    ChangesOnly errorCycleParts s (raise c v a (executeState w s)) :=
  ((executeState_changesOnly w s).trans (raise_changesOnly _ c v a)).mono (by simp [errorCycleParts])

/-- A fetch is refused under Fault alone, at the lowest address outside memory (R60, R61, R102). -/
theorem fetch_eq_error {a : Nat} (h : fetch s = .error a) :
    s.config.addrPolicy = .fault ∧ 0xFFF ≤ s.pc.toNat ∧ a = max s.pc.toNat 0x1000 := by
  cases hp : s.config.addrPolicy with
  | mask12 =>
    rw [fetch_mask12 hp] at h
    cases h
  | fault =>
    rw [fetch_fault hp] at h
    split at h
    case isTrue => cases h
    case isFalse outside =>
      cases h
      exact ⟨rfl, Nat.not_lt.1 outside, rfl⟩

/-- Everything a step that halts a running CORE can have done: it raised an error in its fetch, or one on the fetched
word. -/
theorem raised_of_halting_step (hs : s.halted = false) (h : step s = .next t) (ht : t.halted = true) :
    (∃ a, fetch s = .error a ∧ t = raise .memoryOutOfRange none (some a) (snapshot s)) ∨
    ∃ w c a, fetch s = .ok w ∧ RaisesOnWord s w c a ∧ t = raise c (some w) a (executeState w s) := by
  obtain ⟨hh, -⟩ | ⟨-, fetchError⟩ | ⟨-, w, hf, hd, rfl⟩ | ⟨-, w, i, u, hf, hd, hu, rfl⟩ := step_cases h
  · simp [hs] at hh
  · exact .inl fetchError
  · exact .inr ⟨w, _, _, hf, .inl ⟨hd, rfl, rfl⟩, rfl⟩
  · rw [finish_halted] at ht
    obtain ⟨c, a, condition, rfl⟩ := raised_of_exec_halts hu (by simp [hs]) ht
    exact .inr ⟨w, c, a, hf, .inr ⟨i, hd, condition⟩, finish_of_halted ht⟩

end ErrorCycles

/-- Settles O16: the error is raised in the state in which the execute step would have started. -/
theorem invalidWordHaltsTheCore : Obligations.InvalidWordHaltsTheCore := by
  intro s w hs hf hd
  exact ⟨_, step_of_invalid hs hf hd, rfl, by simp, rfl, rfl, raise_executeState_changesOnly _ _ _ _ _⟩

/-- Settles O18: an error is raised in the state after the key snapshot, with or without a fetched word. -/
theorem errorsArePrecise : Obligations.ErrorsArePrecise := by
  intro s t hs h ht
  obtain ⟨a, -, rfl⟩ | ⟨w, c, a, -, -, rfl⟩ := raised_of_halting_step hs h ht
  · have frame := (snapshot_changesOnly s).trans (raise_changesOnly _ .memoryOutOfRange none (some a))
    exact ⟨frame.mono (by simp [errorCycleParts]), rfl, rfl, rfl, _, rfl, snapshot_pc s⟩
  · exact ⟨raise_executeState_changesOnly _ _ _ _ _, rfl, rfl, rfl, _, rfl, executeState_pc s w⟩

/-! ### The halt (R235) -/

/-- Settles O21: by induction on the strobes, each of which does `quiet`. -/
theorem haltIsPermanent : Obligations.HaltIsPermanent := by
  intro k
  induction k with
  | zero => exact fun s hs => ⟨s, rfl, hs, ChangesOnly.refl _ s⟩
  | succ k ih =>
    intro s hs
    obtain ⟨t, hrun, ht, kept⟩ := ih (quiet s) hs
    have strobed := core_run_succ (step_of_halted hs) k
    exact ⟨t, strobed.trans hrun, ht, ((quiet_changesOnly s).trans kept).mono (by simp)⟩

section SafeRuns

variable {s u : State} {k : Nat}

theorem runsSafely_succ (h : step s = .next u) : RunsSafely (k + 1) s ↔ RunsSafely k u := by
  rw [RunsSafely, core_run_succ h, RunsSafely]

/-- A halted CORE does not run again (R235). -/
theorem running_of_runsSafely (h : RunsSafely k s) : s.halted = false := by
  by_contra halted
  obtain ⟨t, hrun, ht⟩ := h
  obtain ⟨t', hrun', ht', -⟩ := haltIsPermanent k s (Bool.eq_true_of_not_eq_false halted)
  cases hrun.symm.trans hrun'
  simp [ht] at ht'

end SafeRuns

/-- Settles O22: strobe by strobe of the shorter run; where it ends, the rest of the longer one starts running. -/
theorem safeRunsHaveSafePrefixes : Obligations.SafeRunsHaveSafePrefixes := by
  intro j
  induction j with
  | zero => exact fun k s _ safe => ⟨s, rfl, running_of_runsSafely safe⟩
  | succ j ih =>
    intro k s hjk safe
    obtain ⟨k, rfl⟩ := Nat.exists_eq_add_of_lt hjk
    obtain ⟨u, hu⟩ := step_answers s
    rw [runsSafely_succ hu] at safe ⊢
    exact ih _ u (Nat.le_add_right j k) safe

/-! ### The timers of a completed cycle (R242) -/

/-- A completed cycle that does not execute LD DT,Vx counts DT down (R107). -/
theorem completed_step_delay {s t : State} (hs : s.halted = false) (h : step s = .next t) (ht : t.halted = false)
    (hi : ∀ x, fetchedInstr s ≠ some (.ldDtVx x)) : t.dt.toNat = s.dt.toNat - 1 := by
  obtain ⟨w, i, u, hf, hd, hu, -, rfl⟩ := executed_of_completed_step hs h ht
  have notWriter : .delay ∉ writtenParts i := by
    rw [delay_mem_writtenParts]
    rintro ⟨x, rfl⟩
    exact hi x (fetchedInstr_eq_some.2 ⟨w, hf, hd⟩)
  have kept : u.dt = s.dt := Eq.trans (exec_changesOnly hu .delay notWriter) (executeState_dt s w)
  exact kept ▸ dec0_toNat u.dt

/-- A completed cycle ends with the timer and present steps on the state that the fetched instruction left. -/
theorem completed_step_of_fetchedInstr {s t : State} {i : Instr} (hs : s.halted = false) (h : step s = .next t)
    (ht : t.halted = false) (hi : fetchedInstr s = some i) :
    ∃ w u, exec i (executeState w s) = .next u ∧ t = presentStep (timerStep u) := by
  obtain ⟨w, j, u, hf, hd, hu, -, rfl⟩ := executed_of_completed_step hs h ht
  obtain rfl : j = i := Option.some.inj ((fetchedInstr_eq_some.2 ⟨w, hf, hd⟩).symm.trans hi)
  exact ⟨w, u, hu, rfl⟩

/-- Settles O13: the timer step counts from the value before the cycle, or from the V[x] just written to the timer. -/
theorem timersCountDownEveryCycle : Obligations.TimersCountDownEveryCycle := by
  intro s t hs h ht
  refine ⟨completed_step_delay hs h ht, fun hi => ?_, fun x hi => ?_, fun x hi => ?_⟩
  · obtain ⟨counted, -⟩ := completed_step_sound hs h ht hi
    exact counted
  all_goals
    obtain ⟨w, u, hu, rfl⟩ := completed_step_of_fetchedInstr hs h ht hi
    cases hu
    rw [← readReg_executeState s x w]
  · exact dec0_toNat _
  · exact ⟨dec0_toNat _, timerStep_beep_eq_decide _⟩

/-! ### The invariant: memory stays canonical (R61) -/

section Canonical

variable {i : Instr} {s t : State}

theorem checkAll_mem_wf {as : List Nat} {body : State → State} (hm : s.mem.wf = true)
    (hbody : (body s).mem.wf = true) : (checkAll as body s).mem.wf = true := by
  obtain ⟨-, hok⟩ | ⟨a, -, hbad⟩ := checkAll_cases as body s
  · exact hok ▸ hbody
  · exact hbad ▸ hm

@[simp] theorem keySkip_mem (x : Reg) (down : Bool) (s : State) : (keySkip x down s).mem = s.mem := by
  unfold keySkip
  split
  · exact skipIf_mem ..
  · rfl

@[simp] theorem waitKey_mem (x : Reg) (pressed : List Nat) (s : State) : (waitKey x pressed s).mem = s.mem := by
  cases pressed with
  | nil => rfl
  | cons k ks => exact countDraw_mem s

/-- Only a block store writes memory, and it keeps the canonical form. -/
theorem exec_mem_wf (h : exec i s = .next t) (hm : s.mem.wf = true) : t.mem.wf = true := by
  cases i
  all_goals cases h
  case call | ret => split <;> exact hm
  case seImm | sneImm | seReg | sneReg => rwa [skipIf_mem]
  case addReg | subReg | shr | subnReg | shl => rwa [next2_mem, writeResultAndFlag_mem]
  case skp | sknp => rwa [keySkip_mem]
  case ldVxK => rwa [waitKey_mem]
  case drw | ldRegs => exact checkAll_mem_wf hm (by simpa using hm)
  case ldBVx | stRegs => exact checkAll_mem_wf hm (memWriteList_wf hm)
  all_goals exact hm

end Canonical

/-! ### The invariant: the error record is true of the state (R231-R233) -/

section Records

variable {s u : State} {w : Word} {c : ErrorCause} {a : Option Nat}

theorem ErrorMatches.err_eq_none (h : ErrorMatches s) (hs : s.halted = false) : s.err = none := by
  cases he : s.err with
  | none => rfl
  | some e =>
    rw [ErrorMatches, he] at h
    simp [hs] at h

/-- The record of an execute error states the condition that raised it. -/
theorem errorMatches_of_errorCondition {i : Instr} (hd : decodeWord w = some i) (h : ErrorCondition u i c a) :
    ErrorMatches (raise c (some w) a u) := by
  cases h with
  | full nnn hsp => exact ⟨rfl, rfl, rfl, hsp, w, nnn, rfl, hd⟩
  | empty hsp => exact ⟨rfl, rfl, rfl, hsp, w, rfl, hd⟩
  | skpNoKey x hx => exact ⟨rfl, rfl, w, x, rfl, .inl hd, hx, rfl⟩
  | sknpNoKey x hx => exact ⟨rfl, rfl, w, x, rfl, .inr hd, hx, rfl⟩
  | outside hi hout =>
    obtain ⟨policy, -⟩ := hout
    exact ⟨rfl, rfl, policy, .inr ⟨rfl, w, i, rfl, hd, hi⟩⟩

theorem errorMatches_of_raisesOnWord (h : RaisesOnWord s w c a) :
    ErrorMatches (raise c (some w) a (executeState w s)) := by
  obtain ⟨hd, rfl, rfl⟩ | ⟨i, hd, condition⟩ := h
  · exact ⟨rfl, rfl, rfl, w, rfl, hd⟩
  · exact errorMatches_of_errorCondition hd condition

/-- The record of a fetch error names no word and the lowest address outside (R102, R231). -/
theorem errorMatches_of_fetch_error {a : Nat} (h : fetch s = .error a) :
    ErrorMatches (raise .memoryOutOfRange none (some a) (snapshot s)) := by
  obtain ⟨policy, outside, rfl⟩ := fetch_eq_error h
  refine ⟨rfl, rfl, ?_, .inl ⟨rfl, ?_, ?_⟩⟩
  · exact (congrArg Config.addrPolicy (snapshot_config s)).trans policy
  · exact (snapshot_pc s).symm ▸ outside
  · exact (snapshot_pc s).symm ▸ rfl

end Records

/-! ### The invariant: every outcome of a step -/

section Invariant

variable {s t u : State}

/-- A strobe of a halted CORE changes the pulses alone, and sets them to 0. -/
theorem inv_quiet (h : Inv s) : Inv (quiet s) where
  memCanonical := h.memCanonical
  presented := h.presented
  errorMatches := h.errorMatches
  haltedQuiet _ := ⟨rfl, rfl⟩

/-- An error raised in a state that differs from a consistent one neither in memory nor in Dirty, with no pulse. -/
theorem inv_raise {c : ErrorCause} {w : Option Word} {a : Option Nat} (h : Inv s) (hm : u.mem = s.mem)
    (hd : u.dirty = s.dirty) (hb : u.beep = false) (hp : u.present = false)
    (he : ErrorMatches (raise c w a u)) : Inv (raise c w a u) where
  memCanonical := hm ▸ h.memCanonical
  presented := hd ▸ h.presented
  errorMatches := he
  haltedQuiet _ := ⟨hb, hp⟩

/-- A cycle that halts the CORE. -/
theorem inv_of_halting_step (h : Inv s) (hs : s.halted = false) (hstep : step s = .next t) (ht : t.halted = true) :
    Inv t := by
  obtain ⟨a, hf, rfl⟩ | ⟨w, c, a, -, raises, rfl⟩ := raised_of_halting_step hs hstep ht
  · exact inv_raise h (snapshot_mem s) (snapshot_dirty s) rfl rfl (errorMatches_of_fetch_error hf)
  · exact inv_raise h (executeState_mem s w) (executeState_dirty s w) rfl rfl (errorMatches_of_raisesOnWord raises)

/-- A cycle that completes: no record was made, and step (e) has presented the framebuffer (R114). -/
theorem inv_of_completed_step (h : Inv s) (hs : s.halted = false) (hstep : step s = .next t)
    (ht : t.halted = false) : Inv t := by
  obtain ⟨w, i, u, -, -, hu, hrun, rfl⟩ := executed_of_completed_step hs hstep ht
  obtain ⟨-, herr⟩ := status_of_exec_running hu hrun
  have canonical : u.mem.wf = true := exec_mem_wf hu (by rw [executeState_mem]; exact h.memCanonical)
  have noRecord : u.err = none := by rw [herr, executeState_err, h.errorMatches.err_eq_none hs]
  exact inv_of_running canonical rfl hrun noRecord

end Invariant

/-- Settles O26: a halted CORE does `quiet`; a running one completes its cycle or raises an error. -/
theorem everyStepKeepsTheInvariant : Obligations.EveryStepKeepsTheInvariant := by
  intro s t h hstep
  cases hs : s.halted with
  | true =>
    cases (step_of_halted hs).symm.trans hstep
    exact inv_quiet h
  | false =>
    cases ht : t.halted with
    | true => exact inv_of_halting_step h hs hstep ht
    | false => exact inv_of_completed_step h hs hstep ht

end Sys2Proof.Machine
end

section
/-!
PROOFS for 70_reset_and_hazards.md: what each move of the host (R268) does to its session, the load (R262), the boot
order (R263), the strobes of a running CORE, and the invariant over every move.
-/

namespace Sys2Proof.Machine

/-! ### The moves of a session (R268) -/

section Moves

variable {σ n : Session} {m : HostMove} {r : HostReply}

/-- `load` is no move but on a created CORE (R262, R263). -/
theorem move_load_eq_none (bs : List Byte) (h : ∀ s, σ ≠ .created s) : σ.move (.load bs) = none := by
  cases σ with
  | created s => exact absurd rfl (h s)
  | absent | rejected | running => rfl

/-- A strobe is no move but on a loaded CORE (R263). -/
theorem move_step_eq_none (p : PortInput) (h : ∀ s, σ ≠ .running s) : σ.move (.step p) = none := by
  cases σ with
  | running s => exact absurd rfl (h s)
  | absent | created | rejected => rfl

theorem move_load_eq_some {bs : List Byte} (h : σ.move (.load bs) = some (r, n)) :
    ∃ s, σ = .created s ∧ loadPort bs s = (r, n) := by
  cases σ with
  | created s => exact ⟨s, rfl, Option.some.inj h⟩
  | absent | rejected | running => cases h

theorem move_step_eq_some {p : PortInput} (h : σ.move (.step p) = some (r, n)) :
    ∃ s t, σ = .running s ∧ step (presentInput p s) = .next t ∧ r = .stepped t.hostView ∧ n = .running t := by
  cases σ with
  | running s =>
    obtain ⟨t, hstep, hr, hn⟩ := strobeReply_eq_some.1 h
    exact ⟨s, t, rfl, hstep, hr, hn⟩
  | absent | created | rejected => cases h

theorem move_observe_eq_some (h : σ.move .observe = some (r, n)) :
    ∃ s, σ.state = some s ∧ r = .observed s.observation ∧ n = σ := by
  obtain ⟨s, hs, hreply⟩ := Option.map_eq_some_iff.1 h
  cases hreply
  exact ⟨s, hs, rfl, rfl⟩

/-- All that a move of the host can be. -/
theorem move_cases (h : σ.move m = some (r, n)) :
    (∃ c font, m = .create c font ∧ r = .created ∧ n = .created (State.resetWith c font)) ∨
    (∃ bs s, m = .load bs ∧ σ = .created s ∧ loadPort bs s = (r, n)) ∨
    (∃ p s t, m = .step p ∧ σ = .running s ∧ step (presentInput p s) = .next t ∧ r = .stepped t.hostView ∧
      n = .running t) ∨
    (∃ s, m = .observe ∧ σ.state = some s ∧ r = .observed s.observation ∧ n = σ) := by
  cases m with
  | create c font => cases h; exact .inl ⟨c, font, rfl, rfl, rfl⟩
  | load bs =>
    obtain ⟨s, loaded⟩ := move_load_eq_some h
    exact .inr (.inl ⟨bs, s, rfl, loaded⟩)
  | step p =>
    obtain ⟨s, t, strobed⟩ := move_step_eq_some h
    exact .inr (.inr (.inl ⟨p, s, t, rfl, strobed⟩))
  | observe =>
    obtain ⟨s, observed⟩ := move_observe_eq_some h
    exact .inr (.inr (.inr ⟨s, rfl, observed⟩))

end Moves

/-! ### The load (R262) -/

theorem copyImage_changesOnly (bs : List Byte) (s : State) : ChangesOnly [.memory] s (copyImage bs s) := by
  intro p hp; cases p <;> simp_all [Unchanged]

/-- Settles O24: the port copies an image that fits and answers RomTooLarge to another; only a created CORE has it. -/
theorem loadCopiesTheImageOrRejectsIt : Obligations.LoadCopiesTheImageOrRejectsIt := by
  intro s bs hm
  refine ⟨fun hlong => ?_, fun hfit => ⟨copyImage bs s, ?_, copyImage_wf hm hfit, fun j hj => ?_, fun a ha => ?_,
    copyImage_changesOnly bs s⟩, fun σ hσ => move_load_eq_none bs hσ⟩
  · rw [move_load_created, loadPort_tooLarge s hlong]
  · rw [move_load_created, loadPort_fits s hfit]
  · exact copyImage_read_image hm hfit hj
  · exact copyImage_read_outside hm hfit ha

/-! ### The boot order (R263) -/

/-- Settles O57: without a created CORE none of the other moves finds the session it needs. -/
theorem hostFollowsTheBootOrder : Obligations.HostFollowsTheBootOrder := by
  refine ⟨move_create, fun σ p hσ => move_step_eq_none p hσ, fun m r n h => ?_⟩
  obtain ⟨c, font, hm, -, -⟩ | ⟨bs, s, -, hσ, -⟩ | ⟨p, s, t, -, hσ, -⟩ | ⟨s, -, hσ, -⟩ := move_cases h
  · exact ⟨c, font, hm⟩
  all_goals cases hσ

/-! ### A running CORE (R268) -/

/-- A running CORE answers every strobe. -/
theorem move_step_answers (p : PortInput) (s : State) : ∃ t, step (presentInput p s) = .next t ∧
    (Session.running s).move (.step p) = some (.stepped t.hostView, .running t) := by
  obtain ⟨t, hstep⟩ := step_answers (presentInput p s)
  exact ⟨t, hstep, by rw [move_step_running, hstep, strobeReply]⟩

/-- The strobe of a CORE that is not halted takes the key vector and the random byte presented with it (R5, R101). -/
theorem step_presentInput_takes_input {p : PortInput} {s t : State} (hs : s.halted = false)
    (h : step (presentInput p s) = .next t) : t.keys = p.keyIn ∧ t.rndIn = p.rndIn := by
  obtain ⟨copied, -, -⟩ := everyCycleCopiesTheKeyPort
  obtain ⟨hkeys, hrnd, -⟩ := copied (presentInput p s) t p [] hs rfl h
  exact ⟨hkeys, hrnd⟩

/-- Settles O56: of the moves there are, a running CORE has not `load`; a strobe is answered since every step is. -/
theorem hostChangesARunningCoreOnlyByStrobes : Obligations.HostChangesARunningCoreOnlyByStrobes := by
  refine fun s => ⟨fun m r n h => ?_, fun p => ?_, move_observe_running s⟩
  · obtain created | ⟨bs, u, -, hσ, -⟩ | ⟨p, u, t, hm, hσ, strobed⟩ | ⟨u, hm, hσ, hr, hn⟩ := move_cases h
    · exact .inl created
    · cases hσ
    · cases hσ
      exact .inr (.inl ⟨p, t, hm, strobed⟩)
    · cases hσ
      exact .inr (.inr ⟨hm, hr, hn⟩)
  · obtain ⟨t, hstep, hmove⟩ := move_step_answers p s
    exact ⟨t, hstep, hmove, fun hs => step_presentInput_takes_input hs hstep⟩

/-! ### The invariant over the moves -/

section Invariant

variable {s : State}

/-- The inputs of the coming cycle are no part of the invariant. -/
theorem inv_presentInput (p : PortInput) (h : Inv s) : Inv (presentInput p s) where
  memCanonical := h.memCanonical
  presented := h.presented
  errorMatches := h.errorMatches
  haltedQuiet := h.haltedQuiet

/-- A load writes memory alone, and it keeps the canonical form. -/
theorem inv_copyImage {bs : List Byte} (hfit : bs.length ≤ romMax) (h : Inv s) : Inv (copyImage bs s) where
  memCanonical := copyImage_wf h.memCanonical hfit
  presented := h.presented
  errorMatches := h.errorMatches
  haltedQuiet := h.haltedQuiet

theorem inv_of_loadPort {bs : List Byte} {r : HostReply} {n : Session} {t : State} (h : Inv s)
    (hload : loadPort bs s = (r, n)) (ht : n.state = some t) : Inv t := by
  obtain hfit | hlong := le_or_gt bs.length romMax
  · cases (loadPort_fits s hfit).symm.trans hload
    cases ht
    exact inv_copyImage hfit h
  · cases (loadPort_tooLarge s hlong).symm.trans hload
    cases ht
    exact h

end Invariant

/-- Settles O58: `create` gives a reset state (O25), a strobe is a step (O26), the load keeps the canonical memory, and
observing leaves the session as it is. -/
theorem hostMovesKeepTheInvariant : Obligations.HostMovesKeepTheInvariant := by
  intro σ n m r hinv h t ht
  obtain ⟨c, font, -, -, rfl⟩ | ⟨bs, s, -, rfl, hload⟩ | ⟨p, s, u, -, rfl, hstep, -, rfl⟩ | ⟨s, -, -, -, rfl⟩ :=
    move_cases h
  · obtain ⟨-, resetInv⟩ := resetMeetsTheInvariant
    cases ht
    exact resetInv c font
  · exact inv_of_loadPort (hinv s rfl) hload ht
  · cases ht
    exact everyStepKeepsTheInvariant _ _ (inv_presentInput p (hinv s rfl)) hstep
  · exact hinv t ht

end Sys2Proof.Machine
end
